-- ==== Sys2Proof/Word.lean ====
section
/-! DEFINITION. The words of the block: bytes, register addresses and request words (spec/00_scope.md R12). -/

namespace Sys2Proof

/-- A byte: an 8-bit unsigned value (R12). -/
abbrev Byte := BitVec 8

/-- A register address of the peripheral: 7 bits, 0 to 127 (spec/20_memory.md R64). -/
abbrev RegAddr := BitVec 7

/-- A request word REQ (spec/30_encoding.md R89). -/
abbrev ReqWord := BitVec 32

end Sys2Proof
end

