-- ==== Sys2Proof/Config.lean ====
section
/-! DEFINITION. What is fixed for one machine: the parameters and constants of spec/00_scope.md R7 to R9, the open
checksum function, and the values that the environment draws where State does not list them. -/

namespace Sys2Proof

/-- The bit order of CFG (R8); the spec names this one value. -/
inductive BitOrder where
  | msbFirst
  deriving DecidableEq, Repr

/-- The sampling edge of CFG (R8); the spec names this one value. -/
inductive SampleEdge where
  | trailing
  deriving DecidableEq, Repr

/-- A polarity of CFG (R8); the spec names this one value. -/
inductive Polarity where
  | activeLow
  deriving DecidableEq, Repr

/-- The bus configuration record passed to CONFIGURE (R8). No rule reads its fields (spec/41_transport.md R131). -/
structure BusConfig where
  clockRateHz        : Nat
  bitOrder           : BitOrder
  sampleEdge         : SampleEdge
  clockPolarity      : Polarity
  chipSelectPolarity : Polarity
  deriving DecidableEq, Repr

/-- The parameters of R7 that the source leaves to construction or leaves open. A state carries one value of this
record and no step changes it, so a statement about all states is a statement about all parameters. -/
structure Params where
  /-- BITRATE_HZ: the clock rate passed to CONFIGURE. -/
  bitrateHz        : Nat
  /-- CHANNEL: the reference of the bus channel, opaque to the block. -/
  channel          : Nat
  /-- ERRCNT_W: the width of the ErrorCounter in bits. -/
  errcntW          : Nat
  /-- TRACE_RESET: TraceFlag at reset. -/
  traceReset       : Bool
  /-- RECONFIG_ON_REINIT: whether REINITIALIZE applies CONFIGURE again after OPEN. -/
  reconfigOnReinit : Bool
  /-- LOCK_FAIR: whether lock grants are weakly fair. -/
  lockFair         : Bool
  /-- NCALLERS: the number of caller agents. -/
  ncallers         : Nat
  deriving DecidableEq, Repr

/-- The ranges R7 and decision D34 give the parameters: at least one caller, a positive bit rate. -/
abbrev Params.Valid (p : Params) : Prop := 1 ≤ p.ncallers ∧ 0 < p.bitrateHz

/-- CFG (R8). -/
def Params.busConfig (p : Params) : BusConfig :=
  { clockRateHz := p.bitrateHz, bitOrder := .msbFirst, sampleEdge := .trailing,
    clockPolarity := .activeLow, chipSelectPolarity := .activeLow }

/-- One answer of the bus agent (R17). Each bus action reads the part it needs: CONFIGURE and OPEN read `ok`,
WRITE_BYTES reads the count `n`, READ_BYTES reads `n` and `bytes`. -/
structure Answer where
  ok    : Bool
  n     : Int
  bytes : List Byte
  deriving DecidableEq, Repr, Inhabited

/-- One move of one agent (R11): what the next step of the machine is.
DESIGN CHOICE (log entry 2): the order of the agents, which R200 leaves open, is data. -/
inductive Move where
  /-- Caller `c` issues the request word `word` with the side-band operand `out` (spec/42_engine_ops.md R150 (1)). -/
  | issue (c : Nat) (word : ReqWord) (out : Nat)
  /-- The lock is granted to caller `c`, and its request is carried out whole, as one step (spec/10_state.md R50). -/
  | serve (c : Nat)
  /-- The lock is granted to caller `c`; its phases follow as moves `engine` (spec/20_memory.md R73). -/
  | acquire (c : Nat)
  /-- The engine takes the next action of the request that holds the lock. -/
  | engine
  /-- The Propagate agent copies TraceFlag into the view of caller `d` (R79). -/
  | propagate (d : Nat)
  deriving DecidableEq, Repr, Inhabited

namespace Config

/-- WRITE_FLAG, the byte-0 marker of a write frame (R7). -/
def writeFlag : Byte := 0x80#8
/-- CMD_LEN, the length of a command frame in bytes (R7). -/
def cmdLen : Nat := 3
/-- ADDR_MAX, the largest register address (R7). -/
def addrMax : Nat := 127
/-- LEN_MIN, the shortest read (R7). -/
def lenMin : Nat := 1
/-- LEN_MAX, the longest read (R7). -/
def lenMax : Nat := 255
/-- LOG_PERIOD, the modulus of the diagnostic throttle (R7). -/
def logPeriod : Nat := 50
/-- LOG_SUPPRESS_THRESHOLD, the count from which a diagnostic carries the suppression note (R7, D8). -/
def logSuppressThreshold : Nat := 50
/-- T_SETTLE_US, the delay between the command write and the response read (R7, R9). -/
def tSettleUs : Nat := 1000
/-- T_REINIT_PRE_US, the delay after the close of a recovery (R7, R9). -/
def tReinitPreUs : Nat := 1000
/-- T_REINIT_POST_US, the delay after the reopen of a recovery (R7, R9). -/
def tReinitPostUs : Nat := 10000

/-- CK, the checksum function (R14, D2): OPEN, total and pure, no property assumed. -/
opaque ck : List Byte → Byte

/-- The `k`-th answer of the bus that State does not list (R17): a free value. -/
opaque freeAnswer : Nat → Answer

/-- Byte `i` of the response buffer at draw `k`, where the answer lists no such byte (spec/41_transport.md R136):
a free value. -/
opaque freeByte : Nat → Nat → Byte

/-- The `k`-th move of the agents that State does not list (R75, R79, R200): a free value. -/
opaque freeMove : Nat → Move

/-- The parameters of State.reset: the defaults of R7. DESIGN CHOICE (log entry 5): NCALLERS, which has no default, is
2, and the opaque CHANNEL is 0. -/
def atReset : Params :=
  { bitrateHz := 500000, channel := 0, errcntW := 32, traceReset := false, reconfigOnReinit := true,
    lockFair := false, ncallers := 2 }

end Config

end Sys2Proof
end

