-- ==== Sys2Proof/Syntax.lean ====
section
/-! DEFINITION. The instructions: one constructor per row of spec/opcode_table.json. The five requests of a caller
(spec/30_encoding.md R90), the three wire frames (R85, R87) and the six bus actions (R94). -/

namespace Sys2Proof

/-- One row of the opcode table each. An operand that the encoding does not carry in its word is a side-band operand:
`out` of READ (R89), `us` of DELAY and `k` of READ_BYTES (R94). WRITE_BYTES always passes S.cmd and CONFIGURE always
passes CFG, so they have no operand here (spec/41_transport.md R130, R132). -/
inductive Instr where
  /-- INIT (R151). -/
  | init
  /-- WRITE addr, value (R156). -/
  | write (addr : RegAddr) (value : Byte)
  /-- READ addr, len, out (R162). -/
  | read (addr : RegAddr) (len : Byte) (out : Nat)
  /-- SHUTDOWN (R170). -/
  | shutdown
  /-- SET_LOGGING enable (R172). -/
  | setLogging (enable : Bool)
  /-- WRITE_CMD, the write command frame with its checksum byte `c` (R85, R114). -/
  | writeCmd (addr : RegAddr) (value : Byte) (c : Byte)
  /-- READ_CMD, the read command frame with its checksum byte `c` (R85, R117). -/
  | readCmd (addr : RegAddr) (len : Byte) (c : Byte)
  /-- RESPONSE, a response frame: its payload and its trailing checksum byte (R87, R119). -/
  | response (payload : List Byte) (trailer : Byte)
  /-- CONFIGURE (R130). -/
  | configure
  /-- WRITE_BYTES (R132). -/
  | writeBytes
  /-- DELAY us (R134). -/
  | delay (us : Nat)
  /-- READ_BYTES k (R136). -/
  | readBytes (k : Nat)
  /-- CLOSE (R138). -/
  | closeBus
  /-- OPEN (R139). -/
  | openBus
  deriving DecidableEq, Repr

/-- The five requests that a caller issues (R19); the other rows are frames and actions of the engine. -/
def Instr.isRequest : Instr → Bool
  | .init => true
  | .write _ _ => true
  | .read _ _ _ => true
  | .shutdown => true
  | .setLogging _ => true
  | .writeCmd _ _ _ => false
  | .readCmd _ _ _ => false
  | .response _ _ => false
  | .configure => false
  | .writeBytes => false
  | .delay _ => false
  | .readBytes _ => false
  | .closeBus => false
  | .openBus => false

/-- The requests that take the transaction lock: all but SET_LOGGING (spec/20_memory.md R73, R79). -/
def Instr.takesLock : Instr → Bool
  | .init => true
  | .write _ _ => true
  | .read _ _ _ => true
  | .shutdown => true
  | .setLogging _ => false
  | .writeCmd _ _ _ => false
  | .readCmd _ _ _ => false
  | .response _ _ => false
  | .configure => false
  | .writeBytes => false
  | .delay _ => false
  | .readBytes _ => false
  | .closeBus => false
  | .openBus => false

end Sys2Proof
end

