-- ==== Sys2Proof/WellFormed.lean ====
section
/-! DEFINITION. Which instructions the spec gives a meaning: the operand ranges of spec/30_encoding.md R85, R87, R92
and spec/41_transport.md R134, R136. A register address is 7 bits by its type (R91). -/

namespace Sys2Proof

/-- The frame `[b0, b1, c]` carries the checksum that the builder computes (R86, spec/40_checksum_frames.md R113). -/
def frameChecked (b0 b1 c : Byte) : Bool := decide (c = Config.ck [b0, b1])

/-- The operand checks of one instruction. -/
def Instr.wellFormed : Instr → Bool
  | .init => true
  | .write _ _ => true
  | .read _ len _ => decide (len ≠ 0#8)
  | .shutdown => true
  | .setLogging _ => true
  | .writeCmd addr value c => frameChecked (addr.setWidth 8 ||| Config.writeFlag) value c
  | .readCmd addr len c => decide (len ≠ 0#8) && frameChecked (addr.setWidth 8) len c
  | .response payload _ => decide (Config.lenMin ≤ payload.length ∧ payload.length ≤ Config.lenMax)
  | .configure => true
  | .writeBytes => true
  | .delay us => decide (us = Config.tSettleUs ∨ us = Config.tReinitPreUs ∨ us = Config.tReinitPostUs)
  | .readBytes k => decide (Config.lenMin + 1 ≤ k ∧ k ≤ Config.lenMax + 1)
  | .closeBus => true
  | .openBus => true

end Sys2Proof
end

