-- ==== Sys2Proof/Decode.lean ====
section
/-! DEFINITION. The encodings of spec/30_encoding.md: the decoder, total on every word, frame and action, which rejects
by name, and after it the encoder. -/

namespace Sys2Proof

/-- The reasons of a refusal (spec/60_exceptions.md R196): four of the encoding (R92), two of the state check (R197). -/
inductive Reason where
  | badOp
  | reservedBits
  | addrRange
  | lenRange
  | notReady
  | notAdmitted
  deriving DecidableEq, Repr

/-- Why the decoder rejects a packet: a request word by its reason of R92, a frame whose length is not the one of R97,
an action tag that R94 does not list. -/
inductive Reject where
  | request (r : Reason)
  | badFrameLength
  | badTag
  deriving DecidableEq, Repr

/-- What reaches the decoder: a request word with its side-band OUT (R89), the bytes of a command frame (R85), the bytes
of a response to a READ of length `len` (R87, R97), or a bus-action tag with its side-band argument (R94). -/
inductive Packet where
  | request (w : ReqWord) (out : Nat)
  | command (bytes : List Byte)
  | response (len : Nat) (bytes : List Byte)
  | action (tag : Byte) (arg : Nat)
  deriving DecidableEq, Repr

/-- OP = REQ[31:24] (R89). -/
def reqOp (w : ReqWord) : Byte := w.extractLsb' 24 8
/-- A = REQ[23:16] (R89). -/
def reqA (w : ReqWord) : Byte := w.extractLsb' 16 8
/-- D = REQ[15:8] (R89). -/
def reqD (w : ReqWord) : Byte := w.extractLsb' 8 8
/-- Z = REQ[7:0] (R89). -/
def reqZ (w : ReqWord) : Byte := w.extractLsb' 0 8

/-- A valid address has bit 7 clear (R91). -/
def addrValid (a : Byte) : Bool := decide (a.toNat ≤ Config.addrMax)

/-- The request word (R89 to R92), refused in the order BAD_OP, RESERVED_BITS, ADDR_RANGE, LEN_RANGE
(spec/60_exceptions.md R199). -/
def decodeRequest (w : ReqWord) (out : Nat) : Except Reason Instr :=
  if reqOp w = 0x01#8 then
    if reqA w = 0 ∧ reqD w = 0 ∧ reqZ w = 0 then .ok .init else .error .reservedBits
  else if reqOp w = 0x02#8 then
    if reqZ w ≠ 0 then .error .reservedBits
    else if addrValid (reqA w) = false then .error .addrRange
    else .ok (.write ((reqA w).setWidth 7) (reqD w))
  else if reqOp w = 0x03#8 then
    if reqZ w ≠ 0 then .error .reservedBits
    else if addrValid (reqA w) = false then .error .addrRange
    else if reqD w = 0 then .error .lenRange
    else .ok (.read ((reqA w).setWidth 7) (reqD w) out)
  else if reqOp w = 0x04#8 then
    if reqA w = 0 ∧ reqD w = 0 ∧ reqZ w = 0 then .ok .shutdown else .error .reservedBits
  else if reqOp w = 0x05#8 then
    if reqA w = 0 ∧ (reqD w).extractLsb' 1 7 = 0 ∧ reqZ w = 0 then .ok (.setLogging ((reqD w).getLsbD 0))
    else .error .reservedBits
  else .error .badOp

/-- A command frame (R86): bit 7 of byte 0 tells the two kinds apart, bits 6 to 0 are the address. DESIGN CHOICE (log
entry 13): a read frame whose length byte is 0, which R85 does not admit and no rule decodes, decodes to READ_CMD with
length 0, which is not well-formed; the checksum byte is not checked. -/
def decodeCommand (b0 b1 b2 : Byte) : Instr :=
  if b0.getLsbD 7 then .writeCmd (b0.setWidth 7) b1 b2 else .readCmd (b0.setWidth 7) b1 b2

/-- A response frame of a READ of length `len` (R87): `len` payload bytes and the trailing checksum. -/
def decodeResponse (len : Nat) (bytes : List Byte) : Except Reject Instr :=
  if Config.lenMin ≤ len ∧ len ≤ Config.lenMax ∧ bytes.length = len + 1 then
    .ok (.response (bytes.take len) (bytes.getD len 0))
  else .error .badFrameLength

/-- A bus-action tag (R94) with its side-band argument: the duration of DELAY, the count of READ_BYTES. -/
def decodeAction (tag : Byte) (arg : Nat) : Except Reject Instr :=
  if tag = 0x10#8 then .ok .configure
  else if tag = 0x11#8 then .ok .writeBytes
  else if tag = 0x12#8 then .ok (.delay arg)
  else if tag = 0x13#8 then .ok (.readBytes arg)
  else if tag = 0x14#8 then .ok .closeBus
  else if tag = 0x15#8 then .ok .openBus
  else .error .badTag

/-- The decoder of every packet. -/
def decode (p : Packet) : Except Reject Instr :=
  match p with
  | .request w out =>
    match decodeRequest w out with
    | .ok i => .ok i
    | .error r => .error (.request r)
  | .command bytes =>
    match bytes with
    | [b0, b1, b2] => .ok (decodeCommand b0 b1 b2)
    | _ => .error .badFrameLength
  | .response len bytes => decodeResponse len bytes
  | .action tag arg => decodeAction tag arg

/-- Assembles a request word from its fields (R89); Z is 0. -/
def reqWord (op a d : Byte) : ReqWord := op ++ a ++ d ++ (0#8 : Byte)

/-- The encoder, from the tables of R85, R87, R90 and R94. -/
def encode (i : Instr) : Packet :=
  match i with
  | .init => .request (reqWord 0x01#8 0#8 0#8) 0
  | .write addr value => .request (reqWord 0x02#8 (addr.setWidth 8) value) 0
  | .read addr len out => .request (reqWord 0x03#8 (addr.setWidth 8) len) out
  | .shutdown => .request (reqWord 0x04#8 0#8 0#8) 0
  | .setLogging enable => .request (reqWord 0x05#8 0#8 (if enable then 1#8 else 0#8)) 0
  | .writeCmd addr value c => .command [addr.setWidth 8 ||| Config.writeFlag, value, c]
  | .readCmd addr len c => .command [addr.setWidth 8, len, c]
  | .response payload trailer => .response payload.length (payload ++ [trailer])
  | .configure => .action 0x10#8 0
  | .writeBytes => .action 0x11#8 0
  | .delay us => .action 0x12#8 us
  | .readBytes k => .action 0x13#8 k
  | .closeBus => .action 0x14#8 0
  | .openBus => .action 0x15#8 0

/-- The instruction of a packet, or none where the decoder rejects it. -/
def decode? (p : Packet) : Option Instr :=
  match decode p with
  | .ok i => some i
  | .error _ => none

/-- The packet of a table row: 32 bits are a request word with OUT = 0; 24 bits are a command frame, numbered as the
table numbers it, `F = byte0 << 16 | byte1 << 8 | byte2` (R85); 8 bits are an action tag with a zero argument. The row
RESPONSE has no bits in the table: the shortest response frame, one payload byte and the trailing byte, of zeros, or of
the 16 bits given, the payload byte in bits 7 to 0 and the trailing byte in bits 15 to 8, so that the byte received first is
the lower one (DESIGN CHOICE, log entry 13: the spec gives RESPONSE no word and so no byte order of one). -/
def tablePacket (nbits w : Nat) : Option Packet :=
  match nbits with
  | 32 => some (.request (BitVec.ofNat 32 w) 0)
  | 24 => some (.command [BitVec.ofNat 8 (w >>> 16), BitVec.ofNat 8 (w >>> 8), BitVec.ofNat 8 w])
  | 16 => some (.response 1 [BitVec.ofNat 8 w, BitVec.ofNat 8 (w >>> 8)])
  | 8 => some (.action (BitVec.ofNat 8 w) 0)
  | 0 => some (.response 1 [0#8, 0#8])
  | _ => none

/-- The instruction that the decoder reads from a table row's word. -/
def decodeTableWord (nbits w : Nat) : Option Instr :=
  match tablePacket nbits w with
  | some p => decode? p
  | none => none

end Sys2Proof
end

