-- ==== Sys2Proof/Machine/State.lean ====
section
/-! DEFINITION. The state of the block (spec/10_state.md R32 to R49), the reasons a step stops, and the state after
reset (spec/70_reset_and_hazards.md R220). -/

namespace Sys2Proof.Machine

/-- The sequencer phase (R32). -/
inductive Phase where
  | idle
  | config
  | cmd
  | settle
  | resp
  | check
  | recover
  | commit
  | final
  deriving DecidableEq, Repr

/-- The engine state (R33). -/
inductive EngineState where
  | uninitialized
  | ready
  | recovering
  | terminated
  | faulted
  deriving DecidableEq, Repr

/-- The transaction lock (R37). -/
inductive Lock where
  | free
  | held (c : Nat)
  deriving DecidableEq, Repr

/-- The bus channel as the block has driven it (R38). -/
inductive Channel where
  | unconfigured
  | configured
  | closed
  | opened
  deriving DecidableEq, Repr

/-- The fatal reasons of `raise Fault` (R39, spec/60_exceptions.md R193). -/
inductive FatalReason where
  | busConfigError
  | resetError
  deriving DecidableEq, Repr

/-- The result a caller receives (R190). OK of a READ carries the payload, every other OK carries nothing. -/
inductive Result where
  | ok
  | okRead (payload : List Byte)
  | writeError
  | readError
  | checksumError
  | busConfigError
  | resetError
  deriving DecidableEq, Repr

/-- The verdict of VALIDATE_RESPONSE (R119). -/
inductive Verdict where
  | valid
  | checksumMismatch
  deriving DecidableEq, Repr

/-- The kinds of a diagnostic event (R167). -/
inductive DiagKind where
  | readError
  | checksumError
  deriving DecidableEq, Repr

/-- A diagnostic event `Diag(kind, count, suppressed)` (R45). -/
structure Diag where
  kind       : DiagKind
  count      : Nat
  suppressed : Bool
  deriving DecidableEq, Repr

/-- One entry of the bus trace (R44, R94): an action with its argument and its answer. -/
inductive BusEvent where
  | configure (cfg : BusConfig) (ok : Bool)
  | writeBytes (bytes : List Byte) (n : Int)
  | delay (us : Nat)
  | readBytes (k : Nat) (n : Int) (bytes : List Byte)
  | closeBus
  | openBus (ok : Bool)
  deriving DecidableEq, Repr

/-- The operation codes of a request (R90). -/
inductive Op where
  | init
  | write
  | read
  | shutdown
  | setLogging
  deriving DecidableEq, Repr

/-- `S.req`, the request that holds the lock (R43). `data` is the value, the length or the enable bit; `out` is
READ's only and 0 in every other request (DESIGN CHOICE, log entry 26). -/
structure Request where
  op     : Op
  addr   : Byte
  data   : Byte
  caller : Nat
  out    : Nat
  deriving DecidableEq, Repr

/-- A request as its caller issued it: the word with its side-band OUT (R46, R89). -/
structure Call where
  word : ReqWord
  out  : Nat
  deriving DecidableEq, Repr

/-- What the block holds for one caller: `S.pending[c]` and `S.results[c]` (R46), `S.tview[c]` (R36), and the model's
own mark `denied`: the pending request has been refused and takes no further step (R196, log entry 9). -/
structure Caller where
  pending : Option Call
  denied  : Bool
  tview   : Bool
  results : List Result
  deriving DecidableEq, Repr

/-- The command-frame buffer, 3 bytes (R41). -/
structure CmdFrame where
  b0 : Byte
  b1 : Byte
  b2 : Byte
  deriving DecidableEq, Repr

/-- The bytes of the command frame in bus order, byte 0 first (spec/20_memory.md R61). -/
def CmdFrame.bytes (f : CmdFrame) : List Byte := [f.b0, f.b1, f.b2]

/-- Reasons a step stops the machine. A failing request of the block is no such stop: it returns a result or leaves the
block FAULTED, which is a next state (spec/60_exceptions.md R193, R202). -/
inductive Fault where
  /-- Raised by the meaning of a request where the request port selects a caller that the machine does not have
  (spec/00_scope.md R11 (a): callers are `c < NCALLERS`). No step of the machine selects one. Safe. -/
  | noSuchCaller
  deriving DecidableEq, Repr

/-- Reasons the model has no meaning for an instruction. A request that the spec refuses is no such case: its refusal
mark is a next state (spec/60_exceptions.md R196). -/
inductive Refusal where
  /-- Raised by an arm of `exec` that has no meaning; no arm does. Safe. -/
  | notModelled (mnemonic : String)
  deriving DecidableEq, Repr

/-- The state of the block, of its callers, and of the environment as far as it is listed. -/
@[ext]
structure State where
  /-- The construction parameters (spec/00_scope.md R7, R49); no step changes them. -/
  params    : Params
  /-- `S.phase` (R32). -/
  phase     : Phase
  /-- `S.estate` (R33). -/
  estate    : EngineState
  /-- `S.errcnt`, below `2 ^ ERRCNT_W` (R34). -/
  errcnt    : Nat
  /-- `S.trace`, the TraceFlag (R35). -/
  trace     : Bool
  /-- Per caller: `S.pending`, `S.tview`, `S.results` (R36, R46). -/
  callers   : List Caller
  /-- `S.lock` (R37). -/
  lock      : Lock
  /-- `S.chan` (R38). -/
  chan      : Channel
  /-- `S.fault` (R39). -/
  fault     : Option FatalReason
  /-- `S.refused`, the sticky mark (R40). -/
  refused   : Bool
  /-- `S.refused`'s list of reasons (R40). -/
  reasons   : List Reason
  /-- `S.cmd` (R41). -/
  cmd       : CmdFrame
  /-- `S.resp`, 256 bytes (R42). -/
  resp      : List Byte
  /-- `S.rn` (R42). -/
  rn        : Int
  /-- `S.req` (R43). -/
  req       : Option Request
  /-- `S.bustrace`, oldest first (R44). -/
  bustrace  : List BusEvent
  /-- `S.diagtrace`, oldest first (R45). -/
  diagtrace : List Diag
  /-- The caller-owned output memory (spec/20_memory.md R64 (b)), in canonical form. -/
  mem       : List Host.Cell
  /-- The model's own: the actions of the current phase still to be issued (log entry 1). -/
  todo      : List Instr
  /-- The model's own: the last verdict of VALIDATE_RESPONSE (log entry 17). -/
  verdict   : Option Verdict
  /-- The model's own: the caller that the request port has selected (log entry 7). -/
  caller    : Nat
  /-- The environment: the next moves of the agents, as far as they are listed (log entry 2). -/
  moves     : List Move
  /-- The environment: the next answers of the bus, as far as they are listed (log entry 3). -/
  answers   : List Answer
  /-- The environment: the index of the next free value; every answer drawn, listed or not, and every free move moves it
  up by one (log entry 3). -/
  draws     : Nat
  deriving DecidableEq, Repr

/-- One caller at reset (R36, R46). -/
def Caller.atReset (p : Params) : Caller :=
  { pending := none, denied := false, tview := p.traceReset, results := [] }

/-- Reset is the construction of the block with its parameters (spec/70_reset_and_hazards.md R220). DESIGN CHOICE (log
entry 6): `cmd`, `resp` and `rn`, which the spec leaves unspecified, are zero. -/
def State.construct (p : Params) : State :=
  { params := p, phase := .idle, estate := .uninitialized, errcnt := 0, trace := p.traceReset,
    callers := List.replicate p.ncallers (Caller.atReset p), lock := .free, chan := .unconfigured, fault := none,
    refused := false, reasons := [], cmd := { b0 := 0#8, b1 := 0#8, b2 := 0#8 },
    resp := List.replicate (Config.lenMax + 1) 0#8, rn := 0, req := none, bustrace := [], diagtrace := [], mem := [],
    todo := [], verdict := none, caller := 0, moves := [], answers := [], draws := 0 }

/-- The machine right after reset, with the parameters of `Config.atReset`. -/
def State.reset : State := State.construct Config.atReset

end Sys2Proof.Machine
end

