-- ==== Sys2Proof/Machine/Ops.lean ====
section
/-! DEFINITION. The named operations: the output memory, the bus actions with their answers, acquire and release, the
refusal of a request, and the fatal fault. -/

namespace Sys2Proof.Machine

/-! ### The caller-owned output memory (spec/20_memory.md R64 (b), R66) -/

/-- The byte at an address: none where the block has written nothing, since what the caller's buffer holds before a READ
is not the block's to know (log entry 8). -/
def Memory.readByte : List Host.Cell → Nat → Option Byte
  | [], _ => none
  | (b, v) :: m, a => if a = b then some v else Memory.readByte m a

/-- `MemWrite(a, 1, v)` (spec/00_scope.md R13): the list stays sorted by address, one entry an address. -/
def Memory.writeByte : List Host.Cell → Nat → Byte → List Host.Cell
  | [], a, v => [(a, v)]
  | (b, w) :: m, a, v =>
    if a < b then (a, v) :: (b, w) :: m
    else if a = b then (a, v) :: m
    else (b, w) :: Memory.writeByte m a v

/-- `MemWrite` of a byte sequence: one byte an address, in ascending order (R66, D40). -/
def Memory.writeBytes (m : List Host.Cell) (out : Nat) : List Byte → List Host.Cell
  | [] => m
  | v :: vs => Memory.writeBytes (Memory.writeByte m out v) (out + 1) vs

/-- The canonical form: addresses strictly rising. An unlisted address reads as no value, so no entry can equal it. -/
def Memory.wf : List Host.Cell → Bool
  | [] => true
  | [_] => true
  | (a, _) :: (b, w) :: m => decide (a < b) && Memory.wf ((b, w) :: m)

/-! ### The bus agent's answers (spec/00_scope.md R17) -/

/-- The index of the free values of answer `i` (from 0): every answer has an index of its own, listed or not, so that no
two answers share a free value (log entry 3). -/
def State.drawIndex (s : State) (i : Nat) : Nat := s.draws + i

/-- The answer of the bus to the `i`-th drawing action from here on (from 0): the listed one, else a free value. -/
def State.answerAt (s : State) (i : Nat) : Answer :=
  match s.answers[i]? with
  | some a => a
  | none => Config.freeAnswer (s.drawIndex i)

/-- The state after one answer has been drawn. -/
def drawn (s : State) : State := { s with answers := s.answers.drop 1, draws := s.drawIndex 1 }

/-- Exactly `k` bytes: the listed ones, filled up by `free` where fewer are listed (spec/41_transport.md R136; DESIGN
CHOICE, log entry 3: a listed answer may list fewer bytes than are asked for). -/
def fitBytes (k : Nat) (listed : List Byte) (free : Nat → Byte) : List Byte :=
  (List.range k).map fun i => listed.getD i (free i)

/-- The `k` bytes that READ_BYTES answers, if it is the `i`-th drawing action from here on. -/
def State.bytesAt (s : State) (i k : Nat) : List Byte :=
  fitBytes k (s.answerAt i).bytes (Config.freeByte (s.drawIndex i))

/-! ### The bus actions (spec/41_transport.md R130 to R139) -/

/-- Appends one entry to the bus trace (spec/10_state.md R44). -/
def record (e : BusEvent) (s : State) : State := { s with bustrace := s.bustrace ++ [e] }

/-- Bus.CONFIGURE(CFG) (R130): the answer, and the state after it. -/
def busConfigure (s : State) : Bool × State :=
  let ok := (s.answerAt 0).ok
  let t := record (.configure s.params.busConfig ok) (drawn s)
  (ok, { t with chan := if ok then .configured else t.chan })

/-- Bus.WRITE_BYTES(S.cmd) (R132). -/
def busWriteBytes (s : State) : Int × State :=
  let n := (s.answerAt 0).n
  (n, record (.writeBytes s.cmd.bytes n) (drawn s))

/-- Bus.DELAY(us) (R134). -/
def busDelay (us : Nat) (s : State) : State := record (.delay us) s

/-- Bus.READ_BYTES(k) (R136): `S.rn` is the count, `S.resp[0..k)` the bytes. -/
def busReadBytes (k : Nat) (s : State) : Int × State :=
  let n := (s.answerAt 0).n
  let bytes := s.bytesAt 0 k
  let t := record (.readBytes k n bytes) (drawn s)
  (n, { t with rn := n, resp := bytes ++ t.resp.drop k })

/-- Bus.CLOSE() (R138). -/
def busClose (s : State) : State := { record .closeBus s with chan := .closed }

/-- Bus.OPEN() (R139). -/
def busOpen (s : State) : Bool × State :=
  let ok := (s.answerAt 0).ok
  let t := record (.openBus ok) (drawn s)
  (ok, { t with chan := if ok then (if s.params.reconfigOnReinit then .opened else .configured) else t.chan })

/-- Phase change `phase <- P` (spec/00_scope.md R16). -/
def setPhase (p : Phase) (s : State) : State := { s with phase := p }

/-- `S.estate <- e` (spec/10_state.md R33). -/
def setEstate (e : EngineState) (s : State) : State := { s with estate := e }

/-- `S.cmd <- f` (R41). -/
def setCmd (f : CmdFrame) (s : State) : State := { s with cmd := f }

/-- The actions that the engine has still to issue. -/
def setTodo (l : List Instr) (s : State) : State := { s with todo := l }

/-- MemWrite of a byte sequence to the caller's output buffer (spec/20_memory.md R66). -/
def storeBytes (out : Nat) (bytes : List Byte) (s : State) : State :=
  { s with mem := Memory.writeBytes s.mem out bytes }

/-! ### Requests: acquire, release, refuse, raise Fault -/

/-- Changes what the block holds for caller `c`. -/
def updateCaller (c : Nat) (f : Caller → Caller) (s : State) : State := { s with callers := s.callers.modify c f }

/-- `S.results[c]` (spec/10_state.md R46); empty for a caller that does not exist. -/
def resultsOf (s : State) (c : Nat) : List Result :=
  match s.callers[c]? with
  | some k => k.results
  | none => []

/-- `S.pending[c]` (R46); none for a caller that does not exist. -/
def pendingOf (s : State) (c : Nat) : Option Call :=
  match s.callers[c]? with
  | some k => k.pending
  | none => none

/-- The request record of an instruction (spec/10_state.md R43); none for a frame or a bus action. R43 gives the field `out`
to READ only and no rule gives it a value in another request: it is 0 there, whatever OUT the call carries (DESIGN CHOICE,
log entry 26). `addr` and `data` are the fields A and D of the request's word, 0 where R89 makes them 0. -/
def requestOf (c : Nat) (i : Instr) : Option Request :=
  match i with
  | .init => some { op := .init, addr := 0, data := 0, caller := c, out := 0 }
  | .write addr value => some { op := .write, addr := addr.setWidth 8, data := value, caller := c, out := 0 }
  | .read addr len out => some { op := .read, addr := addr.setWidth 8, data := len, caller := c, out := out }
  | .shutdown => some { op := .shutdown, addr := 0, data := 0, caller := c, out := 0 }
  | .setLogging enable =>
    some { op := .setLogging, addr := 0, data := if enable then 1 else 0, caller := c, out := 0 }
  | .writeCmd _ _ _ => none
  | .readCmd _ _ _ => none
  | .response _ _ => none
  | .configure => none
  | .writeBytes => none
  | .delay _ => none
  | .readBytes _ => none
  | .closeBus => none
  | .openBus => none

/-- The first phase of a locked request (spec/10_state.md R32). -/
def firstPhase (i : Instr) : Phase :=
  match i with
  | .init => .config
  | .write _ _ => .cmd
  | .read _ _ _ => .cmd
  | .shutdown => .final
  | .setLogging _ => .idle
  | .writeCmd _ _ _ => .idle
  | .readCmd _ _ _ => .idle
  | .response _ _ => .idle
  | .configure => .idle
  | .writeBytes => .idle
  | .delay _ => .idle
  | .readBytes _ => .idle
  | .closeBus => .idle
  | .openBus => .idle

/-- Acquire (spec/20_memory.md R73). -/
def acquireLock (c : Nat) (i : Instr) (s : State) : State :=
  { s with lock := .held c, req := requestOf c i, phase := firstPhase i }

/-- Caller `c` receives a result, and its request is answered (R74). -/
def deliver (c : Nat) (r : Result) (s : State) : State :=
  updateCaller c (fun k => { k with pending := none, results := k.results ++ [r] }) s

/-- Release with a result (R74): the lock is free, no request is in progress and no action is left to issue. -/
def release (c : Nat) (r : Result) (s : State) : State :=
  deliver c r { s with lock := .free, req := none, phase := .idle, todo := [] }

/-- The result that reports a fatal reason (spec/60_exceptions.md R190, R193). -/
def fatalResult (reason : FatalReason) : Result :=
  match reason with
  | .busConfigError => .busConfigError
  | .resetError => .resetError

/-- The numeric result codes (R190); bit 7 marks a fatal fault. -/
def resultCode (r : Result) : Byte :=
  match r with
  | .ok => 0x00#8
  | .okRead _ => 0x00#8
  | .writeError => 0x01#8
  | .readError => 0x02#8
  | .checksumError => 0x03#8
  | .busConfigError => 0x80#8
  | .resetError => 0x81#8

/-- The tag of a bus-trace entry (spec/30_encoding.md R94). -/
def busTag (e : BusEvent) : Byte :=
  match e with
  | .configure _ _ => 0x10#8
  | .writeBytes _ _ => 0x11#8
  | .delay _ => 0x12#8
  | .readBytes _ _ _ => 0x13#8
  | .closeBus => 0x14#8
  | .openBus _ => 0x15#8

/-- `raise Fault(reason)`, the block's one exception entry (R193): the sticky fault mark, FAULTED, release, and the code
to the issuing caller. What earlier phases of the request changed stays. -/
def raiseFault (c : Nat) (reason : FatalReason) (s : State) : State :=
  release c (fatalResult reason) { s with fault := some reason, estate := .faulted }

/-- `refuse(reason)` (R196): the sticky mark and the reason; the caller keeps its pending request, receives no result and
takes no further step with it. -/
def refuse (c : Nat) (reason : Reason) (s : State) : State :=
  updateCaller c (fun k => { k with denied := true }) { s with refused := true, reasons := s.reasons ++ [reason] }

/-- The verdict of the state check (R197). -/
inductive Admission where
  | admitted
  | refused (r : Reason)
  | noStep
  deriving DecidableEq, Repr

/-- The state check of INIT (R197). A locked request never meets RECOVERING, which holds only while the lock is held
(spec/10_state.md R33); the model gives it no step there (log entry 24). -/
def admitInit (e : EngineState) : Admission :=
  match e with
  | .uninitialized => .admitted
  | .ready => .admitted
  | .recovering => .noStep
  | .terminated => .refused .notAdmitted
  | .faulted => .noStep

/-- The state check of WRITE and READ (R197). -/
def admitTransfer (e : EngineState) : Admission :=
  match e with
  | .uninitialized => .refused .notReady
  | .ready => .admitted
  | .recovering => .noStep
  | .terminated => .refused .notAdmitted
  | .faulted => .noStep

/-- The state check of SHUTDOWN (R197). -/
def admitShutdown (e : EngineState) : Admission :=
  match e with
  | .uninitialized => .admitted
  | .ready => .admitted
  | .recovering => .noStep
  | .terminated => .admitted
  | .faulted => .noStep

/-- The state check of SET_LOGGING (R197): admitted everywhere but in FAULTED, RECOVERING included. -/
def admitLogging (e : EngineState) : Admission :=
  match e with
  | .uninitialized => .admitted
  | .ready => .admitted
  | .recovering => .admitted
  | .terminated => .admitted
  | .faulted => .noStep

/-- The state check of a request (R197). A frame or a bus action is no request and is never put to it. -/
def admitRequest (i : Instr) (e : EngineState) : Admission :=
  match i with
  | .init => admitInit e
  | .write _ _ => admitTransfer e
  | .read _ _ _ => admitTransfer e
  | .shutdown => admitShutdown e
  | .setLogging _ => admitLogging e
  | .writeCmd _ _ _ => .noStep
  | .readCmd _ _ _ => .noStep
  | .response _ _ => .noStep
  | .configure => .noStep
  | .writeBytes => .noStep
  | .delay _ => .noStep
  | .readBytes _ => .noStep
  | .closeBus => .noStep
  | .openBus => .noStep

/-- Steps 3 to 5 of the request cycle (spec/42_engine_ops.md R150) for the selected caller and a locked request: it waits
while the lock is held (R73), the state check runs when the lock is free (R197), and `body` carries it on from acquire.
A wait, and FAULTED's 'no step' (R194), leave the state as it is, the request pending. -/
def lockedRequest (i : Instr) (body : Nat → State → State) (s : State) : Host.Outcome State Fault Refusal :=
  if s.caller < s.callers.length then
    match s.lock with
    | .held _ => .next s
    | .free =>
      match admitRequest i s.estate with
      | .noStep => .next s
      | .refused r => .next (refuse s.caller r s)
      | .admitted => .next (body s.caller (acquireLock s.caller i s))
  else .fault .noSuchCaller

/-- Applies `f` to the state of a next step. -/
def continueWith (o : Host.Outcome State Fault Refusal) (f : State → State) : Host.Outcome State Fault Refusal :=
  match o with
  | .next s => .next (f s)
  | .fault r => .fault r
  | .refused r => .refused r

end Sys2Proof.Machine
end

