-- ==== Sys2Proof/Machine/Operands.lean ====
section
/-! DEFINITION. Operand assembly: the command frames (spec/30_encoding.md R88, spec/40_checksum_frames.md R113 to R118),
the response frame and its check (R110, R119, R120). -/

namespace Sys2Proof.Machine

/-- BUILD_WRITE_FRAME's three bytes (R114). -/
def writeFrame (addr : RegAddr) (value : Byte) : CmdFrame :=
  { b0 := addr.setWidth 8 ||| Config.writeFlag, b1 := value,
    b2 := Config.ck [addr.setWidth 8 ||| Config.writeFlag, value] }

/-- BUILD_READ_FRAME's three bytes (R117). -/
def readFrame (addr : RegAddr) (len : Byte) : CmdFrame :=
  { b0 := addr.setWidth 8, b1 := len, b2 := Config.ck [addr.setWidth 8, len] }

/-- The length of the response to a READ of length `len` (R87): `len + 1`, in more than 8 bits (R88). -/
def responseLength (len : Byte) : Nat := len.toNat + 1

/-- CHECK_CK(s, n) (R110): 8-bit equality of CK of the first `n` bytes with byte `n`; false where there is no byte `n`. -/
def checkCk (s : List Byte) (n : Nat) : Bool := s[n]? == some (Config.ck (s.take n))

/-- VALIDATE_RESPONSE (R119) of a frame with `n` payload bytes. -/
def verdictOf (s : List Byte) (n : Nat) : Verdict := if checkCk s n then .valid else .checksumMismatch

/-- PAYLOAD (R120): the first `len` bytes of the response buffer. -/
def payloadOf (resp : List Byte) (len : Byte) : List Byte := resp.take len.toNat

/-- The trailing byte of the response, byte `len` of the response buffer (R87). -/
def trailerOf (resp : List Byte) (len : Byte) : Byte := resp.getD len.toNat 0

end Sys2Proof.Machine
end

