-- ==== Sys2Proof/Machine/Flags.lean ====
section
/-! DEFINITION. TraceFlag and its views (spec/10_state.md R35, R36), the ErrorCounter (spec/42_engine_ops.md R169) and
the diagnostic throttle that reads both (R167). The block has no condition codes (R47). -/

namespace Sys2Proof.Machine

/-- The increment of the ErrorCounter, modulo `2 ^ ERRCNT_W` (R169). -/
def countError (s : State) : State := { s with errcnt := (s.errcnt + 1) % 2 ^ s.params.errcntW }

/-- The clear of the ErrorCounter (R169). -/
def clearErrors (s : State) : State := { s with errcnt := 0 }

/-- `S.tview[c]`, the TraceFlag as caller `c`'s requests see it (R36); false for a caller that does not exist. -/
def viewOf (s : State) (c : Nat) : Bool :=
  match s.callers[c]? with
  | some k => k.tview
  | none => false

/-- The events that THROTTLE emits for a count `k` after the increment (R167): with the caller's view set, counts 1, 51,
101, … emit one, marked suppressed from LOG_SUPPRESS_THRESHOLD on. -/
def throttleEvents (view : Bool) (kind : DiagKind) (k : Nat) : List Diag :=
  if view = true ∧ k % Config.logPeriod = 1 then
    [{ kind := kind, count := k, suppressed := decide (Config.logSuppressThreshold ≤ k) }]
  else []

/-- THROTTLE(kind) of a request of caller `c` (R167). -/
def throttle (c : Nat) (kind : DiagKind) (s : State) : State :=
  { s with diagtrace := s.diagtrace ++ throttleEvents (viewOf s c) kind s.errcnt }

/-- SET_LOGGING's writes (R172): TraceFlag and the issuing caller's own view. -/
def setTrace (c : Nat) (enable : Bool) (s : State) : State :=
  updateCaller c (fun k => { k with tview := enable }) { s with trace := enable }

/-- The Propagate agent's step into the view of caller `d` (spec/20_memory.md R79). -/
def propagateTo (d : Nat) (s : State) : State := updateCaller d (fun k => { k with tview := s.trace }) s

end Sys2Proof.Machine
end

