-- ==== Sys2Proof/Machine/BusActions.lean ====
section
/-! DEFINITION. The meanings of the six bus actions (spec/41_transport.md R130 to R139). An action raises nothing; the
issuing rule acts on its answer (Machine/Sequencer.lean, Machine/Requests.lean). -/

namespace Sys2Proof.Machine

/-- CONFIGURE (R130). -/
def execConfigure (s : State) : Host.Outcome State Fault Refusal := .next (busConfigure s).2

/-- WRITE_BYTES of S.cmd (R132). -/
def execWriteBytes (s : State) : Host.Outcome State Fault Refusal := .next (busWriteBytes s).2

/-- DELAY (R134). -/
def execDelay (us : Nat) (s : State) : Host.Outcome State Fault Refusal := .next (busDelay us s)

/-- READ_BYTES (R136). -/
def execReadBytes (k : Nat) (s : State) : Host.Outcome State Fault Refusal := .next (busReadBytes k s).2

/-- CLOSE (R138). -/
def execCloseBus (s : State) : Host.Outcome State Fault Refusal := .next (busClose s)

/-- OPEN (R139). -/
def execOpenBus (s : State) : Host.Outcome State Fault Refusal := .next (busOpen s).2

end Sys2Proof.Machine
end

