-- ==== Sys2Proof/Machine/Frames.lean ====
section
/-! DEFINITION. The meanings of the three wire frames: the two command-frame builders and the response validator
(spec/40_checksum_frames.md R114, R117, R119). -/

namespace Sys2Proof.Machine

/-- WRITE_CMD: BUILD_WRITE_FRAME(addr, value) (R114). State written: S.cmd only. The checksum byte is always computed
from bytes 0 and 1 of the same frame (R113), so the operand `c` is not used. -/
def execWriteCmd (addr : RegAddr) (value _c : Byte) (s : State) : Host.Outcome State Fault Refusal :=
  .next (setCmd (writeFrame addr value) s)

/-- READ_CMD: BUILD_READ_FRAME(addr, len) (R117). State written: S.cmd only. -/
def execReadCmd (addr : RegAddr) (len _c : Byte) (s : State) : Host.Outcome State Fault Refusal :=
  .next (setCmd (readFrame addr len) s)

/-- VALIDATE_RESPONSE of a received frame (R119): the verdict, which the sequencer acts on. -/
def validateResponse (payload : List Byte) (trailer : Byte) (s : State) : State :=
  { s with verdict := some (verdictOf (payload ++ [trailer]) payload.length) }

/-- RESPONSE: the response check (R119). No state of the spec is written, only the model's latch of the verdict. A payload of
no byte or of more than 255 lies outside the 1 to 255 of R119 and the decoder rejects it; put before the engine by hand it is judged
in the same way (DESIGN CHOICE, log entry 27). -/
def execResponse (payload : List Byte) (trailer : Byte) (s : State) : Host.Outcome State Fault Refusal :=
  .next (validateResponse payload trailer s)

end Sys2Proof.Machine
end

