-- ==== Sys2Proof/Machine/Requests.lean ====
section
/-! DEFINITION. The meanings of the five requests, each carried out whole for the caller that the request port has
selected, as spec/10_state.md R50 allows and calls exact: acquire, all phases, release (spec/42_engine_ops.md R151 to
R172). -/

namespace Sys2Proof.Machine

/-- REINITIALIZE (spec/41_transport.md R140): true where it completed, false where OPEN or the CONFIGURE after it
answered fail. -/
def reinitialize (s : State) : Bool × State :=
  let opened := busOpen (busDelay Config.tReinitPreUs (busClose s))
  if opened.1 then
    if s.params.reconfigOnReinit then
      let configured := busConfigure opened.2
      if configured.1 then (true, busDelay Config.tReinitPostUs configured.2) else (false, configured.2)
    else (true, busDelay Config.tReinitPostUs opened.2)
  else (false, opened.2)

/-- INIT from acquire to release (R151). -/
def initBody (c : Nat) (s : State) : State :=
  let configured := busConfigure s
  if configured.1 then release c .ok (setEstate .ready configured.2)
  else raiseFault c .busConfigError configured.2

/-- WRITE from acquire to release (R156). -/
def writeBody (addr : RegAddr) (value : Byte) (c : Nat) (s : State) : State :=
  let written := busWriteBytes (setCmd (writeFrame addr value) s)
  release c (if written.1 = Config.cmdLen then .ok else .writeError) written.2

/-- READ's COMMIT phase (R162, R168): the counter is cleared, the payload copied out and returned. -/
def commitRead (len : Byte) (out c : Nat) (s : State) : State :=
  let payload := payloadOf s.resp len
  release c (.okRead payload) (storeBytes out payload (clearErrors s))

/-- READ after a checksum mismatch (R162, R166): the counter, the throttle, then the recovery, whose failure is the fatal
RESET_ERROR. -/
def recoverRead (c : Nat) (s : State) : State :=
  let counted := throttle c .checksumError (countError s)
  let recovered := reinitialize (setEstate .recovering (setPhase .recover counted))
  if recovered.1 then release c .checksumError (setEstate .ready recovered.2)
  else raiseFault c .resetError recovered.2

/-- READ's CHECK phase and what follows it (R162). -/
def checkRead (len : Byte) (out c : Nat) (s : State) : State :=
  let checked := validateResponse (payloadOf s.resp len) (trailerOf s.resp len) s
  if checked.verdict = some .valid then commitRead len out c (setPhase .commit checked) else recoverRead c checked

/-- READ from acquire to release (R162). -/
def readBody (addr : RegAddr) (len : Byte) (out c : Nat) (s : State) : State :=
  let written := busWriteBytes (setCmd (readFrame addr len) s)
  if written.1 = Config.cmdLen then
    let settled := busDelay Config.tSettleUs (setPhase .settle written.2)
    let answered := busReadBytes (responseLength len) (setPhase .resp settled)
    if answered.1 = responseLength len then checkRead len out c (setPhase .check answered.2)
    else release c .readError (throttle c .readError (countError answered.2))
  else release c .writeError written.2

/-- SHUTDOWN from acquire to release (R170): no bus action. -/
def shutdownBody (c : Nat) (s : State) : State := release c .ok (setEstate .terminated s)

/-- INIT (R151). -/
def execInit (s : State) : Host.Outcome State Fault Refusal := lockedRequest .init initBody s

/-- WRITE (R156). -/
def execWrite (addr : RegAddr) (value : Byte) (s : State) : Host.Outcome State Fault Refusal :=
  lockedRequest (.write addr value) (writeBody addr value) s

/-- READ (R162). Length 0 is refused with its word (R92) and is no READ of R162; put to the meaning by hand it takes the same
path (DESIGN CHOICE, log entry 27). -/
def execRead (addr : RegAddr) (len : Byte) (out : Nat) (s : State) : Host.Outcome State Fault Refusal :=
  lockedRequest (.read addr len out) (readBody addr len out) s

/-- SHUTDOWN (R170). -/
def execShutdown (s : State) : Host.Outcome State Fault Refusal := lockedRequest .shutdown shutdownBody s

/-- SET_LOGGING (R172): no lock; it has no step in FAULTED, where the request stays pending (R194). -/
def execSetLogging (enable : Bool) (s : State) : Host.Outcome State Fault Refusal :=
  if s.caller < s.callers.length then
    match admitLogging s.estate with
    | .noStep => .next s
    | .refused r => .next (refuse s.caller r s)
    | .admitted => .next (deliver s.caller .ok (setTrace s.caller enable s))
  else .fault .noSuchCaller

end Sys2Proof.Machine
end

