-- ==== Sys2Proof/Machine/Dispatch.lean ====
section
/-! DEFINITION. One arm per instruction, each one call of its meaning. -/

namespace Sys2Proof.Machine

def exec (i : Instr) (s : State) : Host.Outcome State Fault Refusal :=
  match i with
  | .init => Sys2Proof.Machine.execInit s
  | .write addr value => Sys2Proof.Machine.execWrite addr value s
  | .read addr len out => Sys2Proof.Machine.execRead addr len out s
  | .shutdown => Sys2Proof.Machine.execShutdown s
  | .setLogging enable => Sys2Proof.Machine.execSetLogging enable s
  | .writeCmd addr value c => Sys2Proof.Machine.execWriteCmd addr value c s
  | .readCmd addr len c => Sys2Proof.Machine.execReadCmd addr len c s
  | .response payload trailer => Sys2Proof.Machine.execResponse payload trailer s
  | .configure => Sys2Proof.Machine.execConfigure s
  | .writeBytes => Sys2Proof.Machine.execWriteBytes s
  | .delay us => Sys2Proof.Machine.execDelay us s
  | .readBytes k => Sys2Proof.Machine.execReadBytes k s
  | .closeBus => Sys2Proof.Machine.execCloseBus s
  | .openBus => Sys2Proof.Machine.execOpenBus s

end Sys2Proof.Machine
end

