-- ==== Sys2Proof/Machine/Sequencer.lean ====
section
/-! DEFINITION. The serial transaction sequencer phase by phase (spec/10_state.md R32): which actions each phase issues,
what the engine does with an action's answer, and the engine's turn. -/

namespace Sys2Proof.Machine

/-- The actions of a request's first phase (R32). -/
def openingActions (i : Instr) : List Instr :=
  match i with
  | .init => [.configure]
  | .write addr value => [.writeCmd addr value (writeFrame addr value).b2, .writeBytes]
  | .read addr len _ => [.readCmd addr len (readFrame addr len).b2, .writeBytes]
  | .shutdown => []
  | .setLogging _ => []
  | .writeCmd _ _ _ => []
  | .readCmd _ _ _ => []
  | .response _ _ => []
  | .configure => []
  | .writeBytes => []
  | .delay _ => []
  | .readBytes _ => []
  | .closeBus => []
  | .openBus => []

/-- The actions of REINITIALIZE (spec/41_transport.md R140). -/
def recoveryActions (p : Params) : List Instr :=
  [.closeBus, .delay Config.tReinitPreUs, .openBus] ++ (if p.reconfigOnReinit then [.configure] else []) ++
    [.delay Config.tReinitPostUs]

/-- Acquire alone: the lock is taken and the first phase begins (spec/20_memory.md R73); its actions follow one by one.
SET_LOGGING takes no lock and has no phases: it runs whole (R172). -/
def beginRequest (i : Instr) (s : State) : Host.Outcome State Fault Refusal :=
  if i.takesLock then lockedRequest i (fun _ t => setTodo (openingActions i) t) s else exec i s

/-- The answer ok or fail of the action issued last; an action without one counts as ok. -/
def lastStatus (s : State) : Bool :=
  match s.bustrace.getLast? with
  | some (.configure _ ok) => ok
  | some (.openBus ok) => ok
  | some (.writeBytes _ _) => true
  | some (.delay _) => true
  | some (.readBytes _ _ _) => true
  | some .closeBus => true
  | none => true

/-- The count that the WRITE_BYTES issued last answered; 0 after any other action. -/
def lastWritten (s : State) : Int :=
  match s.bustrace.getLast? with
  | some (.writeBytes _ n) => n
  | some (.readBytes _ _ _) => 0
  | some (.configure _ _) => 0
  | some (.openBus _) => 0
  | some (.delay _) => 0
  | some .closeBus => 0
  | none => 0

/-- INIT after its CONFIGURE (R151). -/
def afterConfigure (r : Request) (s : State) : State :=
  if lastStatus s then release r.caller .ok (setEstate .ready s) else raiseFault r.caller .busConfigError s

/-- WRITE or READ after the command WRITE_BYTES (R156, R162). -/
def afterCommand (r : Request) (s : State) : State :=
  if lastWritten s = Config.cmdLen then
    match r.op with
    | .read => setTodo [.delay Config.tSettleUs] (setPhase .settle s)
    | .write => release r.caller .ok s
    | .init => s
    | .shutdown => s
    | .setLogging => s
  else release r.caller .writeError s

/-- READ after the settle delay (R162, R164). -/
def afterSettle (r : Request) (s : State) : State :=
  setTodo [.readBytes (responseLength r.data)] (setPhase .resp s)

/-- READ after READ_BYTES, whose count is `S.rn` (R162, R165); a full-length response is next put to the response validator. -/
def afterResponse (r : Request) (s : State) : State :=
  if s.rn = responseLength r.data then
    setTodo [.response (payloadOf s.resp r.data) (trailerOf s.resp r.data)] (setPhase .check s)
  else release r.caller .readError (throttle r.caller .readError (countError s))

/-- READ after the verdict (R162, R166). -/
def afterVerdict (r : Request) (s : State) : State :=
  if s.verdict = some .valid then setTodo [] (setPhase .commit s)
  else
    let counted := throttle r.caller .checksumError (countError s)
    setTodo (recoveryActions s.params) (setEstate .recovering (setPhase .recover counted))

/-- READ after one action of the recovery (R140, R162): a fail is the fatal RESET_ERROR; after the last action the READ
returns CHECKSUM_ERROR. -/
def afterRecovery (r : Request) (s : State) : State :=
  if lastStatus s then
    if s.todo = [] then release r.caller .checksumError (setEstate .ready s) else s
  else raiseFault r.caller .resetError s

/-- What the issuing rule does after one action of its phase. CMD has a second action to issue after the frame is built.
Outside a request, and in a phase that issues no action, it does nothing. -/
def afterAction (i : Instr) (s : State) : State :=
  match s.req with
  | none => s
  | some r =>
    match s.phase with
    | .config => afterConfigure r s
    | .cmd => if i = .writeBytes then afterCommand r s else s
    | .settle => afterSettle r s
    | .resp => afterResponse r s
    | .check => afterVerdict r s
    | .recover => afterRecovery r s
    | .idle => s
    | .commit => s
    | .final => s

/-- The phases that issue no action: READ's COMMIT and SHUTDOWN's FINAL (R162, R170). -/
def silentPhase (s : State) : State :=
  match s.req with
  | none => s
  | some r =>
    match s.phase with
    | .commit => commitRead r.data r.out r.caller s
    | .final => shutdownBody r.caller s
    | .idle => s
    | .config => s
    | .cmd => s
    | .settle => s
    | .resp => s
    | .check => s
    | .recover => s

/-- One turn of the engine: it runs the next action of the phase and acts on its answer; with no action left it finishes
a phase that issues none. With no request in progress there is nothing to do. -/
def engineTurn (s : State) : Host.Outcome State Fault Refusal :=
  match s.todo with
  | i :: rest => continueWith (exec i (setTodo rest s)) (afterAction i)
  | [] => .next (silentPhase s)

/-- `k` turns of the engine, with no move of another agent between them. -/
def engineRun : Nat → State → Host.Outcome State Fault Refusal
  | 0, s => .next s
  | k + 1, s =>
    match engineTurn s with
    | .next t => engineRun k t
    | .fault r => .fault r
    | .refused r => .refused r

end Sys2Proof.Machine
end

