-- ==== Sys2Proof/Machine/Agents.lean ====
section
/-! DEFINITION. The moves of the agents (spec/00_scope.md R11): a caller's issue, the grant of the lock, the engine's
turn, Propagate. A move that its agent cannot make leaves the state as it is (log entry 11). -/

namespace Sys2Proof.Machine

/-- The move that the next step makes: the listed one, else a free value (R75, R200). -/
def nextMove (s : State) : Move :=
  match s.moves with
  | m :: _ => m
  | [] => Config.freeMove s.draws

/-- The state after its next move has been taken from the list, or drawn. -/
def moveTaken (s : State) : State :=
  { s with moves := s.moves.drop 1, draws := s.draws + (1 - s.moves.length) }

/-- The request port selects caller `c`. -/
def selectCaller (c : Nat) (s : State) : State := { s with caller := c }

/-- Caller `c`'s request stands at the port (spec/42_engine_ops.md R150 (1)). -/
def setPending (c : Nat) (call : Call) (s : State) : State :=
  updateCaller c (fun k => { k with pending := some call, denied := false }) s

/-- The pending request of caller `c` that may still take a step: none where there is none, or it has been refused
(spec/60_exceptions.md R196). -/
def waitingCall (s : State) (c : Nat) : Option Call :=
  match s.callers[c]? with
  | some k => if k.denied then none else k.pending
  | none => none

/-- A caller issues a request only when it has none pending (spec/10_state.md R46). -/
def mayIssue (s : State) (c : Nat) : Bool :=
  match s.callers[c]? with
  | some k => k.pending.isNone
  | none => false

/-- Steps 1 to 3 of the request cycle (R150): the request is pending, the encoding check runs, SET_LOGGING runs at once
and a locked request waits for the lock. -/
def issueRequest (c : Nat) (word : ReqWord) (out : Nat) (s : State) : Host.Outcome State Fault Refusal :=
  if mayIssue s c then
    match decodeRequest word out with
    | .error r => .next (refuse c r (setPending c { word := word, out := out } s))
    | .ok i =>
      if i.takesLock then .next (setPending c { word := word, out := out } s)
      else exec i (selectCaller c (setPending c { word := word, out := out } s))
  else .next s

/-- Runs `run` on the waiting request of caller `c`; a request whose word is refused at the encoding gets no further. -/
def withWaiting (c : Nat) (run : Instr → State → Host.Outcome State Fault Refusal) (s : State) :
    Host.Outcome State Fault Refusal :=
  match waitingCall s c with
  | none => .next s
  | some call =>
    match decodeRequest call.word call.out with
    | .error r => .next (refuse c r s)
    | .ok i => run i (selectCaller c s)

/-- The lock is granted to caller `c` and its request is carried out whole (spec/10_state.md R50). -/
def serveCaller (c : Nat) (s : State) : Host.Outcome State Fault Refusal := withWaiting c exec s

/-- The lock is granted to caller `c`; the engine's turns carry the request out (spec/20_memory.md R73). -/
def acquireCaller (c : Nat) (s : State) : Host.Outcome State Fault Refusal := withWaiting c beginRequest s

/-- One move of one agent. -/
def makeMove (m : Move) (s : State) : Host.Outcome State Fault Refusal :=
  match m with
  | .issue c word out => issueRequest c word out s
  | .serve c => serveCaller c s
  | .acquire c => acquireCaller c s
  | .engine => engineTurn s
  | .propagate d => .next (propagateTo d s)

/-- Places a request word at the request port of caller 0 and lists the move that serves it. -/
def placeRequest (call : Call) (s : State) : State :=
  { setPending 0 call s with moves := .serve 0 :: s.moves }

/-- Places a frame or an action before the engine and lists the engine's turn. -/
def placeAction (i : Instr) (s : State) : State := { s with todo := i :: s.todo, moves := .engine :: s.moves }

/-- Places a packet where the next step fetches its instruction; a packet that the decoder rejects and that is no request
word is not placed. -/
def placePacket (p : Packet) (s : State) : State :=
  match p with
  | .request w out => placeRequest { word := w, out := out } s
  | .command bytes => placeDecoded (.command bytes) s
  | .response len bytes => placeDecoded (.response len bytes) s
  | .action tag arg => placeDecoded (.action tag arg) s
where
  placeDecoded (q : Packet) (t : State) : State :=
    match decode? q with
    | some i => placeAction i t
    | none => t

end Sys2Proof.Machine
end

