-- ==== Sys2Proof/Machine/Step.lean ====
section
/-! DEFINITION. One step of the machine: the next move of its agents. -/

namespace Sys2Proof.Machine

/-- One step: one move of one agent (spec/00_scope.md R11). -/
def step (s : State) : Host.Outcome State Fault Refusal := makeMove (nextMove s) (moveTaken s)

/-- The state with a table row's word placed where the next step fetches its instruction: a request word at the request
port of caller 0 with the move that serves it, a frame or an action before the engine with the engine's turn (log entry
18). -/
def State.withFetchWord (s : State) (nbits w : Nat) : State :=
  match tablePacket nbits w with
  | some p => placePacket p s
  | none => s

end Sys2Proof.Machine
end

