-- ==== Sys2Proof/Safety.lean ====
section
/-! DEFINITION. What the claims speak of: the invariants of the block, acceptable states, and fair executions. -/

namespace Sys2Proof.Machine

/-! ### Invariants -/

/-- The output memory is in canonical form. -/
abbrev MemCanonical (s : State) : Prop := Memory.wf s.mem = true

/-- The ErrorCounter fits its width (spec/10_state.md R34, R48). -/
abbrev CounterInRange (s : State) : Prop := s.errcnt < 2 ^ s.params.errcntW

/-- The refusal mark is set exactly when a reason is listed (R40). -/
abbrev RefusedMark (s : State) : Prop := s.refused = true ↔ s.reasons ≠ []

/-- The machine has NCALLERS callers (R46). -/
abbrev CallersPresent (s : State) : Prop := s.callers.length = s.params.ncallers

/-- The response buffer has `LEN_MAX + 1` bytes (R42). -/
abbrev RespFull (s : State) : Prop := s.resp.length = Config.lenMax + 1

/-- FAULTED exactly with a fatal reason (R39, spec/60_exceptions.md R193). -/
abbrev FaultMark (s : State) : Prop := s.estate = .faulted ↔ s.fault ≠ none

/-- RECOVERING exactly while the phase is RECOVER (R33). -/
abbrev RecoveringPhase (s : State) : Prop := s.estate = .recovering ↔ s.phase = .recover

/-- READY only on a configured channel (spec/41_transport.md R144). -/
abbrev ReadyConfigured (s : State) : Prop := s.estate = .ready → s.chan = .configured

/-- The frame that the CMD phase of a request builds (spec/40_checksum_frames.md R114, R117). -/
def frameOf (r : Request) : CmdFrame :=
  match r.op with
  | .write => writeFrame (r.addr.setWidth 7) r.data
  | .read => readFrame (r.addr.setWidth 7) r.data
  | .init => readFrame (r.addr.setWidth 7) r.data
  | .shutdown => readFrame (r.addr.setWidth 7) r.data
  | .setLogging => readFrame (r.addr.setWidth 7) r.data

/-- The frame instruction that the CMD phase of a request runs first. -/
def frameAction (r : Request) : Instr :=
  match r.op with
  | .write => .writeCmd (r.addr.setWidth 7) r.data (frameOf r).b2
  | .read => .readCmd (r.addr.setWidth 7) r.data (frameOf r).b2
  | .init => .readCmd (r.addr.setWidth 7) r.data (frameOf r).b2
  | .shutdown => .readCmd (r.addr.setWidth 7) r.data (frameOf r).b2
  | .setLogging => .readCmd (r.addr.setWidth 7) r.data (frameOf r).b2

/-- Where a recovery stands: the actions still to issue, and the channel as the actions issued have left it
(spec/41_transport.md R138 to R140). -/
abbrev RecoveryPoint (s : State) : Prop :=
  s.todo = recoveryActions s.params ∨
  (s.todo = (recoveryActions s.params).drop 1 ∧ s.chan = .closed) ∨
  (s.todo = (recoveryActions s.params).drop 2 ∧ s.chan = .closed) ∨
  (s.params.reconfigOnReinit = true ∧ s.todo = [.configure, .delay Config.tReinitPostUs] ∧ s.chan = .opened) ∨
  (s.todo = [.delay Config.tReinitPostUs] ∧ s.chan = .configured)

/-- What holds of the request in progress in each phase (spec/10_state.md R32, R33): which requests have the phase, the
engine state, and the actions of the phase still to issue. -/
abbrev PhasePoint (s : State) (r : Request) : Prop :=
  match s.phase with
  | .idle => False
  | .config => r.op = .init ∧ (s.estate = .uninitialized ∨ s.estate = .ready) ∧ s.todo = [.configure]
  | .cmd => (r.op = .write ∨ r.op = .read) ∧ s.estate = .ready ∧
      (s.todo = [frameAction r, .writeBytes] ∨ (s.todo = [.writeBytes] ∧ s.cmd = frameOf r))
  | .settle => r.op = .read ∧ s.estate = .ready ∧ s.todo = [.delay Config.tSettleUs]
  | .resp => r.op = .read ∧ s.estate = .ready ∧ s.todo = [.readBytes (responseLength r.data)]
  | .check => r.op = .read ∧ s.estate = .ready ∧ s.rn = responseLength r.data ∧
      s.todo = [.response (payloadOf s.resp r.data) (trailerOf s.resp r.data)]
  | .recover => r.op = .read ∧ s.estate = .recovering ∧ RecoveryPoint s
  | .commit => r.op = .read ∧ s.estate = .ready ∧ s.verdict = some .valid ∧ s.rn = responseLength r.data ∧ s.todo = []
  | .final => r.op = .shutdown ∧
      (s.estate = .uninitialized ∨ s.estate = .ready ∨ s.estate = .terminated) ∧ s.todo = []

/-- Where the sequencer stands (R31, R32, R37, R43): IDLE with a free lock, no request and nothing left to issue, or in a
phase of the request whose caller holds the lock. -/
abbrev SequencerPoint (s : State) : Prop :=
  match s.req with
  | none => s.phase = .idle ∧ s.lock = .free ∧ s.todo = [] ∧ s.estate ≠ .recovering
  | some r => s.lock = .held r.caller ∧ r.caller < s.callers.length ∧ PhasePoint s r

/-- The invariant of the block. -/
structure BlockInv (s : State) : Prop where
  sequencer  : SequencerPoint s
  configured : ReadyConfigured s
  faultMark  : FaultMark s
  counter    : CounterInRange s
  memory     : MemCanonical s
  refusals   : RefusedMark s
  callers    : CallersPresent s
  response   : RespFull s

/-! ### Acceptable states -/

/-- A state without a fatal fault and without a refusal: what a run may end in (spec/95_test_vectors.md P5, P6). -/
abbrev Acceptable (s : State) : Prop := s.fault = none ∧ s.refused = false

/-! ### The part of the state that TraceFlag may change -/

/-- The state with TraceFlag, its views and the diagnostic trace blanked (spec/42_engine_ops.md R173). -/
def withoutLogging (s : State) : State :=
  { s with trace := false, callers := s.callers.map fun k => { k with tview := false }, diagtrace := [] }

/-! ### What statements about requests say -/

/-- Every byte of the output memory reads as before. -/
abbrev MemoryUnchanged (s t : State) : Prop := ∀ a, Memory.readByte t.mem a = Memory.readByte s.mem a

/-- What the end of a locked request of caller `c` leaves (spec/20_memory.md R74): the lock free, no request in progress,
the result at the end of the caller's list, its request answered, and every other caller as it was. -/
abbrev ReleasedWith (s t : State) (c : Nat) (r : Result) : Prop :=
  t.lock = .free ∧ t.req = none ∧ t.phase = .idle ∧ t.todo = [] ∧ resultsOf t c = resultsOf s c ++ [r] ∧
  pendingOf t c = none ∧ viewOf t c = viewOf s c ∧ (∀ d, d ≠ c → t.callers[d]? = s.callers[d]?)

/-- The state that no request but SET_LOGGING and the refusals ever changes: the parameters, TraceFlag, the refusal mark. -/
abbrev SettingsUnchanged (s t : State) : Prop :=
  t.params = s.params ∧ t.trace = s.trace ∧ t.refused = s.refused ∧ t.reasons = s.reasons

/-- The diagnostic trace after THROTTLE of a request of caller `c` with the count `k` after the increment
(spec/42_engine_ops.md R167). -/
def throttledTrace (s : State) (c : Nat) (kind : DiagKind) (k : Nat) : List Diag :=
  s.diagtrace ++ (if viewOf s c = true ∧ k % 50 = 1 then
    [{ kind := kind, count := k, suppressed := decide (50 ≤ k) }] else [])

/-- The count after one more failed read (R169). -/
def countedOnce (s : State) : Nat := (s.errcnt + 1) % 2 ^ s.params.errcntW

/-- A transfer of bytes on the bus: WRITE_BYTES or READ_BYTES. -/
def isTransfer (e : BusEvent) : Bool :=
  match e with
  | .writeBytes _ _ => true
  | .readBytes _ _ _ => true
  | .configure _ _ => false
  | .delay _ => false
  | .closeBus => false
  | .openBus _ => false

/-- How often a bus trace closes the channel: once for each REINITIALIZE (spec/41_transport.md R138). -/
def closeCount (l : List BusEvent) : Nat := l.countP fun e => e == .closeBus

/-- The failed reads since the last successful one in a list of results (spec/42_engine_ops.md R176). A READ that ends in
RESET_ERROR has counted its failure before its recovery (log entry 19). -/
def failedReads (l : List Result) : Nat :=
  l.foldl (fun k r =>
    match r with
    | .okRead _ => 0
    | .readError => k + 1
    | .checksumError => k + 1
    | .resetError => k + 1
    | .ok => k
    | .writeError => k
    | .busConfigError => k) 0

/-- `n` times the same request of the selected caller, one after another. -/
def repeatExec : Nat → Instr → State → Host.Outcome State Fault Refusal
  | 0, _, s => .next s
  | n + 1, i, s =>
    match exec i s with
    | .next t => repeatExec n i t
    | .fault r => .fault r
    | .refused r => .refused r

/-- The transitions of the engine state (R175), a whole request or one turn of the engine at a time. -/
def mayFollow (a b : EngineState) : Bool :=
  match a with
  | .uninitialized => b == .uninitialized || b == .ready || b == .faulted || b == .terminated
  | .ready => b == .ready || b == .recovering || b == .faulted || b == .terminated
  | .recovering => b == .recovering || b == .ready || b == .faulted
  | .terminated => b == .terminated
  | .faulted => b == .faulted

/-! ### Executions and fairness -/

/-- An endless run under a schedule: before each step the environment lists the scheduled move, and each state steps to the
next. State alone lists only finitely many moves. -/
abbrev Execution (sched : Nat → Move) (run : Nat → State) : Prop :=
  ∀ k, step { run k with moves := [sched k] } = .next (run (k + 1))

/-- Propagate is weakly fair for caller `d` (spec/20_memory.md R79): its step, always possible, is taken again and
again. -/
abbrev FairPropagate (sched : Nat → Move) (d : Nat) : Prop := ∀ k, ∃ j, k ≤ j ∧ sched j = .propagate d

/-- Caller `c` waits for the lock with a request that takes it, and does not hold it already. -/
abbrev WaitsForLock (s : State) (c : Nat) : Prop :=
  s.lock ≠ .held c ∧ ∃ call i, waitingCall s c = some call ∧ decodeRequest call.word call.out = .ok i ∧ i.takesLock = true

/-- The move grants caller `c` the lock: the lock is free and the move is one of the two grants. -/
abbrev GrantsLock (s : State) (m : Move) (c : Nat) : Prop := s.lock = .free ∧ (m = .serve c ∨ m = .acquire c)

/-- The lock grants caller `c` fairly where LOCK_FAIR is set (spec/20_memory.md R75): a caller that waits continually from
some point on is granted the lock at some later point. With LOCK_FAIR clear nothing is assumed (log entry 15). -/
abbrev FairLock (sched : Nat → Move) (run : Nat → State) (c : Nat) : Prop :=
  (run 0).params.lockFair = true → ∀ k, (∀ j, k ≤ j → WaitsForLock (run j) c) →
    ∃ j, k ≤ j ∧ GrantsLock (run j) (sched j) c

/-- The engine's turn is weakly fair, so every bus action is issued and answered eventually (spec/60_exceptions.md
R213). -/
abbrev FairEngine (sched : Nat → Move) : Prop := ∀ k, ∃ j, k ≤ j ∧ sched j = .engine

end Sys2Proof.Machine
end

