-- ==== Sys2Proof/Certificates/Slice0/Obligations.lean ====
section
/-! DEFINITION. The statements for the provers, from the numbered rules of spec/. -/

open Sys2Proof Sys2Proof.Machine

/-! ### Encodings -/

/-- Every well-formed instruction is what the decoder reads from its encoding, with every operand at every value that the
encodings of R85, R87, R89 to R91 and R94 allow. -/
def Obligations.DecodeInvertsEncode : Prop :=
  ∀ i : Instr, i.wellFormed = true → decode (encode i) = .ok i

/-- A request word that decodes is the encoding of what it decodes to: no request has a second word (R89 to R93), OUT is
kept by READ and is no operand of any other request, and the decoder yields only well-formed requests. -/
def Obligations.RequestWordIsItsEncoding : Prop :=
  ∀ (w : ReqWord) (out : Nat) (i : Instr), decodeRequest w out = .ok i →
    i.isRequest = true ∧ i.wellFormed = true ∧
    (∀ a l o, i = .read a l o → o = out ∧ encode i = .request w out) ∧
    ((∀ a l o, i ≠ .read a l o) → encode i = .request w 0)

/-- Exactly which request words are refused, and by which reason, in the order of R199 (1): BAD_OP, RESERVED_BITS,
ADDR_RANGE, LEN_RANGE (R92). -/
def Obligations.RefusedRequestWords : Prop :=
  ∀ (w : ReqWord) (out : Nat),
    (decodeRequest w out = .error .badOp ↔ reqOp w = 0#8 ∨ 6 ≤ (reqOp w).toNat) ∧
    (decodeRequest w out = .error .reservedBits ↔
      1 ≤ (reqOp w).toNat ∧ (reqOp w).toNat ≤ 5 ∧
      (reqZ w ≠ 0#8 ∨
        ((reqOp w = 1#8 ∨ reqOp w = 4#8) ∧ (reqA w ≠ 0#8 ∨ reqD w ≠ 0#8)) ∨
        (reqOp w = 5#8 ∧ (reqA w ≠ 0#8 ∨ 2 ≤ (reqD w).toNat)))) ∧
    (decodeRequest w out = .error .addrRange ↔
      (reqOp w = 2#8 ∨ reqOp w = 3#8) ∧ reqZ w = 0#8 ∧ 128 ≤ (reqA w).toNat) ∧
    (decodeRequest w out = .error .lenRange ↔
      reqOp w = 3#8 ∧ reqZ w = 0#8 ∧ (reqA w).toNat < 128 ∧ reqD w = 0#8) ∧
    decodeRequest w out ≠ .error .notReady ∧ decodeRequest w out ≠ .error .notAdmitted

/-- Words written out from R85, R89, R90 and R94 decode to the instruction they stand for, and the refused words of R92 are
refused by their reason. That the table word 0x13 has the count 0 is the model's choice (log entry 13: the side-band
argument of a table word is zero). -/
def Obligations.SpecWordsDecode : Prop :=
  decodeTableWord 32 0x01000000 = some .init ∧
  decodeTableWord 32 0x02020500 = some (.write 0x02#7 0x05#8) ∧
  decode (.request 0x03100400#32 0x100) = .ok (.read 0x10#7 0x04#8 0x100) ∧
  decodeTableWord 32 0x04000000 = some .shutdown ∧
  decodeTableWord 32 0x05000100 = some (.setLogging true) ∧
  decodeTableWord 24 0x820500 = some (.writeCmd 0x02#7 0x05#8 0x00#8) ∧
  decodeTableWord 24 0x1004FF = some (.readCmd 0x10#7 0x04#8 0xFF#8) ∧
  decodeTableWord 8 0x10 = some .configure ∧
  decodeTableWord 8 0x13 = some (.readBytes 0) ∧
  decodeTableWord 8 0x15 = some .openBus ∧
  decodeRequest 0x06000000#32 0 = .error .badOp ∧
  decodeRequest 0x05000300#32 0 = .error .reservedBits ∧
  decodeRequest 0x03FF0000#32 0 = .error .addrRange ∧
  decodeRequest 0x03100000#32 0 = .error .lenRange

/-! ### Frames and the checksum -/

/-- R114: WRITE_CMD fills S.cmd with the address marked by WRITE_FLAG, the value, and CK of those two bytes; byte 0 is the
address plus 128; nothing else is written. -/
def Obligations.WriteCmdBuildsFrame : Prop :=
  ∀ (s : State) (addr : RegAddr) (value c : Byte),
    exec (.writeCmd addr value c) s = .next { s with
      cmd := { b0 := addr.setWidth 8 ||| 0x80#8, b1 := value, b2 := Config.ck [addr.setWidth 8 ||| 0x80#8, value] } } ∧
    (addr.setWidth 8 ||| 0x80#8 : Byte).toNat = addr.toNat + 128

/-- R117: READ_CMD fills S.cmd with the address, bit 7 clear, the length, and CK of those two bytes; nothing else is
written. That READ_CMD of length 0, which R117 does not admit, builds its frame in the same way is the model's choice (log
entry 13). -/
def Obligations.ReadCmdBuildsFrame : Prop :=
  ∀ (s : State) (addr : RegAddr) (len c : Byte),
    exec (.readCmd addr len c) s = .next { s with
      cmd := { b0 := addr.setWidth 8, b1 := len, b2 := Config.ck [addr.setWidth 8, len] } } ∧
    (addr.setWidth 8 : Byte).toNat = addr.toNat

/-- R115 and R118: after either builder, byte 2 of S.cmd is CK of bytes 0 and 1. That this holds of READ_CMD of length 0,
which R118 does not speak of, is the model's choice (log entry 13). -/
def Obligations.BuiltFrameCarriesChecksum : Prop :=
  ∀ (s : State) (addr : RegAddr) (v c : Byte),
    (∃ t, exec (.writeCmd addr v c) s = .next t ∧ t.cmd.b2 = Config.ck [t.cmd.b0, t.cmd.b1]) ∧
    (∃ t, exec (.readCmd addr v c) s = .next t ∧ t.cmd.b2 = Config.ck [t.cmd.b0, t.cmd.b1])

/-- R116: different address and value pairs give different bytes 0 and 1. -/
def Obligations.WriteFrameInjective : Prop :=
  ∀ (a a' : RegAddr) (v v' : Byte),
    (writeFrame a v).b0 = (writeFrame a' v').b0 → (writeFrame a v).b1 = (writeFrame a' v').b1 → a = a' ∧ v = v'

/-- R110: CHECK_CK of a sequence of n + 1 bytes holds exactly when byte n is CK of the first n, on all 8 bits; bytes after
byte n are never read. -/
def Obligations.CheckCkComparesTrailer : Prop :=
  ∀ (l extra : List Byte) (n : Nat), 1 ≤ n → l.length = n + 1 →
    (checkCk l n = true ↔ Config.ck (l.take n) = l.getD n 0#8) ∧ checkCk (l ++ extra) n = checkCk l n

/-- R119: RESPONSE judges a frame VALID exactly when its trailing byte is CK of its payload; the only field written is the
model's latch of the verdict (log entry 17). That a payload of no byte or of more than 255, which R119 does not speak of, is
judged in the same way is the model's choice (log entry 27). -/
def Obligations.ResponseGivesVerdict : Prop :=
  ∀ (s : State) (payload : List Byte) (trailer : Byte),
    exec (.response payload trailer) s = .next { s with
      verdict := some (if Config.ck payload = trailer then .valid else .checksumMismatch) }

/-! ### Bus actions -/

/-- R130: CONFIGURE appends its entry with CFG, the record of R8 with the bit rate of construction, and the bus's answer; ok
sets CONFIGURED, fail keeps the channel; nothing else changes but the answer drawn (log entry 3). -/
def Obligations.ConfigureAction : Prop :=
  ∀ s : State, exec .configure s = .next { s with
    bustrace := s.bustrace ++ [.configure
      ⟨s.params.bitrateHz, .msbFirst, .trailing, .activeLow, .activeLow⟩ (s.answerAt 0).ok],
    chan := if (s.answerAt 0).ok then .configured else s.chan,
    answers := s.answers.drop 1, draws := s.drawIndex 1 }

/-- R132: WRITE_BYTES of S.cmd appends its entry with the three bytes, byte 0 first, and the count that the bus answers. -/
def Obligations.WriteBytesAction : Prop :=
  ∀ s : State, exec .writeBytes s = .next { s with
    bustrace := s.bustrace ++ [.writeBytes [s.cmd.b0, s.cmd.b1, s.cmd.b2] (s.answerAt 0).n],
    answers := s.answers.drop 1, draws := s.drawIndex 1 }

/-- R134: DELAY appends its entry and changes nothing else. -/
def Obligations.DelayAction : Prop :=
  ∀ (s : State) (us : Nat), exec (.delay us) s = .next { s with bustrace := s.bustrace ++ [.delay us] }

/-- R136: READ_BYTES(k) appends its entry; S.rn is the count that the bus answers and S.resp[0..k) its k bytes. That the
bytes of the buffer after them stay as they were, and that k above 256, which the block never issues, makes the buffer
longer, is the model's choice (log entry 12). -/
def Obligations.ReadBytesAction : Prop :=
  ∀ (s : State) (k : Nat), (s.bytesAt 0 k).length = k ∧
    exec (.readBytes k) s = .next { s with
      bustrace := s.bustrace ++ [.readBytes k (s.answerAt 0).n (s.bytesAt 0 k)],
      rn := (s.answerAt 0).n, resp := s.bytesAt 0 k ++ s.resp.drop k,
      answers := s.answers.drop 1, draws := s.drawIndex 1 }

/-- R138: CLOSE appends its entry and sets CLOSED; it cannot fail. -/
def Obligations.CloseAction : Prop :=
  ∀ s : State, exec .closeBus s = .next { s with bustrace := s.bustrace ++ [.closeBus], chan := .closed }

/-- R139: OPEN appends its entry; ok sets OPENED, or CONFIGURED where RECONFIG_ON_REINIT is false; fail keeps the
channel. -/
def Obligations.OpenAction : Prop :=
  ∀ s : State, exec .openBus s = .next { s with
    bustrace := s.bustrace ++ [.openBus (s.answerAt 0).ok],
    chan := if (s.answerAt 0).ok then (if s.params.reconfigOnReinit then .opened else .configured) else s.chan,
    answers := s.answers.drop 1, draws := s.drawIndex 1 }

/-! ### Requests -/

/-- R151, CONFIGURE answering ok: INIT in UNINITIALIZED or READY leaves READY on a configured channel, one CONFIGURE of the
record of R8 in the bus trace and the result OK; counter, TraceFlag, views, buffers, diagnostics and memory stay. -/
def Obligations.InitConfigures : Prop :=
  ∀ s : State, s.caller < s.callers.length → s.lock = .free → s.estate = .uninitialized ∨ s.estate = .ready →
    (s.answerAt 0).ok = true →
    ∃ t, exec .init s = .next t ∧ ReleasedWith s t s.caller .ok ∧ SettingsUnchanged s t ∧ MemoryUnchanged s t ∧
      t.estate = .ready ∧ t.chan = .configured ∧
      t.bustrace = s.bustrace ++ [.configure
        ⟨s.params.bitrateHz, .msbFirst, .trailing, .activeLow, .activeLow⟩ true] ∧
      t.errcnt = s.errcnt ∧ t.diagtrace = s.diagtrace ∧ t.fault = s.fault ∧
      t.cmd = s.cmd ∧ t.resp = s.resp ∧ t.rn = s.rn

/-- R151 and R193, CONFIGURE answering fail: INIT raises BUS_CONFIG_ERROR: FAULTED, the sticky reason, the code to the
caller; the channel keeps its state. -/
def Obligations.InitFailureIsFatal : Prop :=
  ∀ s : State, s.caller < s.callers.length → s.lock = .free → s.estate = .uninitialized ∨ s.estate = .ready →
    (s.answerAt 0).ok = false →
    ∃ t, exec .init s = .next t ∧ ReleasedWith s t s.caller .busConfigError ∧ SettingsUnchanged s t ∧
      MemoryUnchanged s t ∧ t.estate = .faulted ∧ t.fault = some .busConfigError ∧ t.chan = s.chan ∧
      t.bustrace = s.bustrace ++ [.configure s.params.busConfig false] ∧
      t.errcnt = s.errcnt ∧ t.diagtrace = s.diagtrace ∧ t.cmd = s.cmd ∧ t.resp = s.resp ∧ t.rn = s.rn

/-- R156 and R157: WRITE in READY builds its frame and issues exactly one WRITE_BYTES of its three bytes; the result is OK
exactly when the bus answers 3; the counter, the diagnostics, the channel and the memory stay on both outcomes. -/
def Obligations.WriteReturns : Prop :=
  ∀ (s : State) (addr : RegAddr) (value : Byte), s.caller < s.callers.length → s.lock = .free → s.estate = .ready →
    ∃ t, exec (.write addr value) s = .next t ∧
      ReleasedWith s t s.caller (if (s.answerAt 0).n = 3 then .ok else .writeError) ∧
      SettingsUnchanged s t ∧ MemoryUnchanged s t ∧ t.estate = .ready ∧ t.chan = s.chan ∧
      t.cmd = writeFrame addr value ∧
      t.bustrace = s.bustrace ++
        [.writeBytes [addr.setWidth 8 ||| 0x80#8, value, Config.ck [addr.setWidth 8 ||| 0x80#8, value]]
          (s.answerAt 0).n] ∧
      t.errcnt = s.errcnt ∧ t.diagtrace = s.diagtrace ∧ t.fault = s.fault ∧ t.resp = s.resp ∧ t.rn = s.rn

/-- R162 and R163: a READ whose command write answers another count than 3 ends at once with WRITE_ERROR: one WRITE_BYTES, no
counter change, no diagnostic, no byte stored. For length 0, which R92 refuses, this is the model's choice
(log entry 27). -/
def Obligations.ReadCommandShort : Prop :=
  ∀ (s : State) (addr : RegAddr) (len : Byte) (out : Nat), s.caller < s.callers.length → s.lock = .free →
    s.estate = .ready → (s.answerAt 0).n ≠ 3 →
    ∃ t, exec (.read addr len out) s = .next t ∧ ReleasedWith s t s.caller .writeError ∧ SettingsUnchanged s t ∧
      MemoryUnchanged s t ∧ t.estate = .ready ∧ t.chan = s.chan ∧ t.cmd = readFrame addr len ∧
      t.bustrace = s.bustrace ++ [.writeBytes (readFrame addr len).bytes (s.answerAt 0).n] ∧
      t.errcnt = s.errcnt ∧ t.diagtrace = s.diagtrace ∧ t.fault = s.fault ∧ t.resp = s.resp ∧ t.rn = s.rn

/-- R162 and R165: a READ whose READ_BYTES answers another count than L + 1 is a READ_ERROR: the counter goes up by one
modulo its width, the throttle decides on a diagnostic, the bus is not reset, no byte is stored. For length 0, which R92
refuses, this is the model's choice (log entry 27). -/
def Obligations.ReadShortResponse : Prop :=
  ∀ (s : State) (addr : RegAddr) (len : Byte) (out : Nat), s.caller < s.callers.length → s.lock = .free →
    s.estate = .ready → (s.answerAt 0).n = 3 → (s.answerAt 1).n ≠ len.toNat + 1 →
    ∃ t, exec (.read addr len out) s = .next t ∧ ReleasedWith s t s.caller .readError ∧ SettingsUnchanged s t ∧
      MemoryUnchanged s t ∧ t.estate = .ready ∧ t.chan = s.chan ∧ t.cmd = readFrame addr len ∧
      t.bustrace = s.bustrace ++ [.writeBytes (readFrame addr len).bytes 3, .delay 1000,
        .readBytes (len.toNat + 1) (s.answerAt 1).n (s.bytesAt 1 (len.toNat + 1))] ∧
      t.errcnt = countedOnce s ∧ t.diagtrace = throttledTrace s s.caller .readError (countedOnce s) ∧
      t.fault = s.fault ∧ t.rn = (s.answerAt 1).n ∧
      t.resp = s.bytesAt 1 (len.toNat + 1) ++ s.resp.drop (len.toNat + 1)

/-- R162 and R168: a READ answered in full by a frame whose trailing byte is CK of its payload clears the counter, stores the
payload at OUT, one byte an address and no other byte, and returns OK with the payload. For length 0, which R92 refuses, this
is the model's choice (log entry 27). -/
def Obligations.ReadSucceeds : Prop :=
  ∀ (s : State) (addr : RegAddr) (len : Byte) (out : Nat) (payload : List Byte) (trailer : Byte),
    s.caller < s.callers.length → s.lock = .free → s.estate = .ready → (s.answerAt 0).n = 3 →
    (s.answerAt 1).n = len.toNat + 1 → s.bytesAt 1 (len.toNat + 1) = payload ++ [trailer] →
    trailer = Config.ck payload →
    ∃ t, exec (.read addr len out) s = .next t ∧ ReleasedWith s t s.caller (.okRead payload) ∧
      SettingsUnchanged s t ∧ t.estate = .ready ∧ t.chan = s.chan ∧ t.cmd = readFrame addr len ∧
      t.bustrace = s.bustrace ++ [.writeBytes (readFrame addr len).bytes 3, .delay 1000,
        .readBytes (len.toNat + 1) (len.toNat + 1) (payload ++ [trailer])] ∧
      t.errcnt = 0 ∧ t.diagtrace = s.diagtrace ∧ t.fault = s.fault ∧ payload.length = len.toNat ∧
      t.rn = len.toNat + 1 ∧ t.resp = payload ++ [trailer] ++ s.resp.drop (len.toNat + 1) ∧
      (∀ k, k < len.toNat → Memory.readByte t.mem (out + k) = payload[k]?) ∧
      (∀ a, a < out ∨ out + len.toNat ≤ a → Memory.readByte t.mem a = Memory.readByte s.mem a)

/-- R162, R166 and R140: a READ answered in full by a frame whose trailing byte is not CK of its payload, whose recovery
completes, is a CHECKSUM_ERROR: the counter up by one, the throttle, then one recovery of exactly the actions of R140, and
READY on a configured channel; no byte is stored. For length 0, which R92 refuses, this is the model's choice
(log entry 27). -/
def Obligations.ReadMismatchRecovers : Prop :=
  ∀ (s : State) (addr : RegAddr) (len : Byte) (out : Nat) (payload : List Byte) (trailer : Byte),
    s.caller < s.callers.length → s.lock = .free → s.estate = .ready → (s.answerAt 0).n = 3 →
    (s.answerAt 1).n = len.toNat + 1 → s.bytesAt 1 (len.toNat + 1) = payload ++ [trailer] →
    trailer ≠ Config.ck payload → (s.answerAt 2).ok = true →
    (s.params.reconfigOnReinit = true → (s.answerAt 3).ok = true) →
    ∃ t, exec (.read addr len out) s = .next t ∧ ReleasedWith s t s.caller .checksumError ∧ SettingsUnchanged s t ∧
      MemoryUnchanged s t ∧ t.estate = .ready ∧ t.chan = .configured ∧ t.cmd = readFrame addr len ∧
      t.bustrace = s.bustrace ++ [.writeBytes (readFrame addr len).bytes 3, .delay 1000,
        .readBytes (len.toNat + 1) (len.toNat + 1) (payload ++ [trailer]), .closeBus, .delay 1000, .openBus true] ++
        (if s.params.reconfigOnReinit then [.configure s.params.busConfig true] else []) ++ [.delay 10000] ∧
      t.errcnt = countedOnce s ∧ t.diagtrace = throttledTrace s s.caller .checksumError (countedOnce s) ∧
      t.fault = s.fault ∧ t.rn = len.toNat + 1 ∧ t.resp = payload ++ [trailer] ++ s.resp.drop (len.toNat + 1)

/-- R140, R142 and R193: a checksum mismatch whose recovery fails, at OPEN or at the CONFIGURE after it, ends the READ in the
fatal RESET_ERROR; the counter and the diagnostic of the mismatch stay, the post-delay is not issued, no byte is stored. For
length 0, which R92 refuses, this is the model's choice (log entry 27). -/
def Obligations.ReadRecoveryFailureIsFatal : Prop :=
  ∀ (s : State) (addr : RegAddr) (len : Byte) (out : Nat) (payload : List Byte) (trailer : Byte),
    s.caller < s.callers.length → s.lock = .free → s.estate = .ready → (s.answerAt 0).n = 3 →
    (s.answerAt 1).n = len.toNat + 1 → s.bytesAt 1 (len.toNat + 1) = payload ++ [trailer] →
    trailer ≠ Config.ck payload →
    ((s.answerAt 2).ok = false ∨
      ((s.answerAt 2).ok = true ∧ s.params.reconfigOnReinit = true ∧ (s.answerAt 3).ok = false)) →
    ∃ t, exec (.read addr len out) s = .next t ∧ ReleasedWith s t s.caller .resetError ∧ SettingsUnchanged s t ∧
      MemoryUnchanged s t ∧ t.estate = .faulted ∧ t.fault = some .resetError ∧
      t.chan = (if (s.answerAt 2).ok then .opened else .closed) ∧ t.cmd = readFrame addr len ∧
      t.bustrace = s.bustrace ++ [.writeBytes (readFrame addr len).bytes 3, .delay 1000,
        .readBytes (len.toNat + 1) (len.toNat + 1) (payload ++ [trailer]), .closeBus, .delay 1000,
        .openBus (s.answerAt 2).ok] ++
        (if (s.answerAt 2).ok then [.configure s.params.busConfig false] else []) ∧
      t.errcnt = countedOnce s ∧ t.diagtrace = throttledTrace s s.caller .checksumError (countedOnce s) ∧
      t.rn = len.toNat + 1 ∧ t.resp = payload ++ [trailer] ++ s.resp.drop (len.toNat + 1)

/-- R170: SHUTDOWN in UNINITIALIZED, READY or TERMINATED leaves TERMINATED with the result OK; it issues no bus action and
leaves everything else. -/
def Obligations.ShutdownTerminates : Prop :=
  ∀ s : State, s.caller < s.callers.length → s.lock = .free →
    s.estate = .uninitialized ∨ s.estate = .ready ∨ s.estate = .terminated →
    ∃ t, exec .shutdown s = .next t ∧ ReleasedWith s t s.caller .ok ∧ SettingsUnchanged s t ∧ MemoryUnchanged s t ∧
      t.estate = .terminated ∧ t.bustrace = s.bustrace ∧ t.chan = s.chan ∧ t.errcnt = s.errcnt ∧
      t.diagtrace = s.diagtrace ∧ t.fault = s.fault ∧ t.cmd = s.cmd ∧ t.resp = s.resp ∧ t.rn = s.rn

/-- R172: SET_LOGGING in any state but FAULTED, whoever holds the lock, writes TraceFlag and the issuing caller's own view
and returns OK; no other caller's view changes, the request in progress and everything else stay. -/
def Obligations.SetLoggingWritesFlag : Prop :=
  ∀ (s : State) (enable : Bool), s.caller < s.callers.length → s.estate ≠ .faulted →
    ∃ t, exec (.setLogging enable) s = .next t ∧ t.trace = enable ∧ viewOf t s.caller = enable ∧
      resultsOf t s.caller = resultsOf s s.caller ++ [.ok] ∧ pendingOf t s.caller = none ∧
      (∀ d, d ≠ s.caller → t.callers[d]? = s.callers[d]?) ∧ MemoryUnchanged s t ∧
      t.params = s.params ∧ t.phase = s.phase ∧ t.estate = s.estate ∧ t.errcnt = s.errcnt ∧ t.lock = s.lock ∧
      t.chan = s.chan ∧ t.fault = s.fault ∧ t.refused = s.refused ∧ t.reasons = s.reasons ∧ t.cmd = s.cmd ∧
      t.resp = s.resp ∧ t.rn = s.rn ∧ t.req = s.req ∧ t.bustrace = s.bustrace ∧ t.diagtrace = s.diagtrace ∧
      t.todo = s.todo

/-- R197 and R196: WRITE and READ before INIT are refused NOT_READY, and INIT, WRITE and READ after SHUTDOWN are refused
NOT_ADMITTED: the mark and the reason are recorded, the caller keeps its pending request without a result and takes no
further step with it, and nothing else changes. For a READ of length 0, which R92 refuses, this is the
model's choice (log entry 27). -/
def Obligations.StateRefusals : Prop :=
  ∀ (s : State) (i : Instr) (r : Reason), s.caller < s.callers.length → s.lock = .free →
    ((∃ a v, i = .write a v) ∨ (∃ a l o, i = .read a l o)) ∧ s.estate = .uninitialized ∧ r = .notReady ∨
      (i = .init ∨ (∃ a v, i = .write a v) ∨ (∃ a l o, i = .read a l o)) ∧ s.estate = .terminated ∧ r = .notAdmitted →
    ∃ callers, exec i s = .next { s with refused := true, reasons := s.reasons ++ [r], callers := callers } ∧
      (∀ d, d ≠ s.caller → callers[d]? = s.callers[d]?) ∧
      callers[s.caller]? = s.callers[s.caller]?.map fun k => { k with denied := true }

/-- R73: a request that takes the lock waits, without any change, while the lock is held; that waiting is an unchanged next
state is the model's choice (log entry 11). For a READ of length 0, which R92 refuses, this is the model's choice (log entry
27). -/
def Obligations.LockedRequestWaits : Prop :=
  ∀ (s : State) (i : Instr) (d : Nat), s.caller < s.callers.length → i.takesLock = true → s.lock = .held d →
    exec i s = .next s

/-- R194: in FAULTED no request of any kind takes a step. For a READ of length 0, which R92 refuses, this is the
model's choice (log entry 27). -/
def Obligations.FaultedTakesNoStep : Prop :=
  ∀ (s : State) (i : Instr), s.caller < s.callers.length → i.isRequest = true → s.estate = .faulted →
    exec i s = .next s

/-- The model's one stop (log entry 16): a meaning stops exactly where a request is put to a caller that the machine does not
have; otherwise it answers a next state, and it never refuses. No rule says so: that a refused request (log entry 9), a
request in FAULTED (log entry 10), a request that waits for the lock (log entry 11) and a request in RECOVERING with a free
lock (log entry 24) answer a next state, and that a term outside the spec's ranges does (log entries 12, 13 and 27), is the
model's choice. -/
def Obligations.ExecStopsOnlyWithoutCaller : Prop :=
  ∀ (i : Instr) (s : State),
    (exec i s = .fault .noSuchCaller ∧ i.isRequest = true ∧ s.callers.length ≤ s.caller) ∨
    ((∃ t, exec i s = .next t) ∧ (i.isRequest = false ∨ s.caller < s.callers.length))

/-- R167: THROTTLE emits an event exactly when the caller's view is set and the count modulo 50 is 1, with that count, marked
suppressed from 50 on; it writes nothing else. -/
def Obligations.ThrottleEmits : Prop :=
  ∀ (s : State) (c : Nat) (kind : DiagKind),
    throttle c kind s = { s with diagtrace := throttledTrace s c kind s.errcnt } ∧
    (s.diagtrace.length < (throttle c kind s).diagtrace.length ↔ viewOf s c = true ∧ s.errcnt % 50 = 1)

/-- The numeric result codes of R190 and the action tags of R94. -/
def Obligations.CodesAndTags : Prop :=
  (∀ p, resultCode (.okRead p) = 0x00#8) ∧ resultCode .ok = 0x00#8 ∧ resultCode .writeError = 0x01#8 ∧
  resultCode .readError = 0x02#8 ∧ resultCode .checksumError = 0x03#8 ∧ resultCode .busConfigError = 0x80#8 ∧
  resultCode .resetError = 0x81#8 ∧ (∀ c b, busTag (.configure c b) = 0x10#8) ∧
  (∀ l n, busTag (.writeBytes l n) = 0x11#8) ∧ (∀ u, busTag (.delay u) = 0x12#8) ∧
  (∀ k n l, busTag (.readBytes k n l) = 0x13#8) ∧ busTag .closeBus = 0x14#8 ∧ ∀ b, busTag (.openBus b) = 0x15#8

/-! ### The step -/

/-- A step runs the decoded instruction, and a step that has none to run changes nothing but what is said here. Serving a
caller whose pending word decodes to i, the step is exec of i for that caller; an engine's turn with the action i next is
exec of i, with what the issuing rule does on its answer (Machine/Sequencer.lean). Taking the move is all that a step adds
before. Issuing a well-formed request that takes the lock sets it pending and does nothing else (R150 (1), (3)); a caller
with a pending request issues nothing (R46); a caller with no waiting request, a refused one among them, is granted nothing
(R196). That such a move is a step without effect is the model's choice (log entry 11). -/
def Obligations.StepRunsDecodedInstruction : Prop :=
  (∀ (s : State) (c : Nat) (call : Call) (i : Instr), nextMove s = .serve c → waitingCall s c = some call →
    decodeRequest call.word call.out = .ok i → step s = exec i (selectCaller c (moveTaken s))) ∧
  (∀ (s : State) (i : Instr) (rest : List Instr), nextMove s = .engine → s.todo = i :: rest →
    step s = continueWith (exec i (setTodo rest (moveTaken s))) (afterAction i)) ∧
  (∀ (s : State) (c : Nat) (word : ReqWord) (out : Nat) (i : Instr), nextMove s = .issue c word out →
    mayIssue s c = true → decodeRequest word out = .ok i → i.takesLock = false →
    step s = exec i (selectCaller c (setPending c { word := word, out := out } (moveTaken s)))) ∧
  (∀ (s : State) (c : Nat) (word : ReqWord) (out : Nat) (i : Instr), nextMove s = .issue c word out →
    mayIssue s c = true → decodeRequest word out = .ok i → i.takesLock = true →
    step s = .next { moveTaken s with
      callers := s.callers.modify c fun k => { k with pending := some { word := word, out := out }, denied := false } }) ∧
  (∀ (s : State) (c : Nat) (word : ReqWord) (out : Nat), nextMove s = .issue c word out → pendingOf s c ≠ none →
    step s = .next (moveTaken s)) ∧
  (∀ (s : State) (c : Nat), nextMove s = .serve c ∨ nextMove s = .acquire c → waitingCall s c = none →
    step s = .next (moveTaken s))

/-- A placed word is what the next step runs (log entry 18): a request word for caller 0, and, with no request in progress, a
frame or an action. -/
def Obligations.PlacedWordIsRun : Prop :=
  (∀ (s : State) (w : Nat) (i : Instr), 0 < s.callers.length → decodeTableWord 32 w = some i →
    step (s.withFetchWord 32 w) =
      exec i (selectCaller 0 (setPending 0 { word := BitVec.ofNat 32 w, out := 0 } s))) ∧
  (∀ (s : State) (nbits w : Nat) (i : Instr), nbits ≠ 32 → s.req = none → decodeTableWord nbits w = some i →
    step (s.withFetchWord nbits w) = exec i s)

/-- R92 and R196: a caller's word that the encoding check refuses leaves the mark and the reason, stays pending without a
result and takes no further step; no bus action is issued and nothing else of the block changes. -/
def Obligations.IssueRefusesBadWord : Prop :=
  ∀ (s : State) (c : Nat) (word : ReqWord) (out : Nat) (r : Reason), nextMove s = .issue c word out →
    mayIssue s c = true → decodeRequest word out = .error r →
    ∃ t, step s = .next t ∧ t.refused = true ∧ t.reasons = s.reasons ++ [r] ∧
      pendingOf t c = some { word := word, out := out } ∧ waitingCall t c = none ∧
      (∀ d, resultsOf t d = resultsOf s d ∧ viewOf t d = viewOf s d) ∧
      (∀ d, d ≠ c → t.callers[d]? = s.callers[d]?) ∧ MemoryUnchanged s t ∧
      t.params = s.params ∧ t.trace = s.trace ∧ t.bustrace = s.bustrace ∧ t.diagtrace = s.diagtrace ∧
      t.estate = s.estate ∧ t.errcnt = s.errcnt ∧ t.lock = s.lock ∧ t.phase = s.phase ∧ t.chan = s.chan ∧
      t.fault = s.fault ∧ t.cmd = s.cmd ∧ t.resp = s.resp ∧ t.rn = s.rn ∧ t.req = s.req ∧ t.todo = s.todo

/-- R79: a Propagate step sets one caller's view to TraceFlag and changes no other view and nothing else of the block. -/
def Obligations.PropagateCopiesFlag : Prop :=
  ∀ (s : State) (d : Nat), nextMove s = .propagate d → d < s.callers.length →
    ∃ callers, step s = .next { moveTaken s with callers := callers } ∧
      callers[d]? = s.callers[d]?.map (fun k => { k with tview := s.trace }) ∧
      ∀ c, c ≠ d → callers[c]? = s.callers[c]?

/-- R73: the grant of the lock to a waiting request in an admitted state, phase by phase: while the lock is held the request
waits, as an unchanged state but for the move taken (log entry 11); on a free lock the step holds the lock for its caller,
makes it the request in progress (R43) and enters its first phase (R32), with the actions of that phase to issue, and changes
nothing else of the block. That S.req.out is 0 for a WRITE, where R43 gives the field to READ only, is the model's choice
(log entry 26). -/
def Obligations.AcquireTakesLock : Prop :=
  ∀ (s : State) (c : Nat) (call : Call) (i : Instr), nextMove s = .acquire c → waitingCall s c = some call →
    decodeRequest call.word call.out = .ok i → i.takesLock = true →
    (∀ d, s.lock = .held d → step s = .next { moveTaken s with caller := c }) ∧
    (s.lock = .free → admitRequest i s.estate = .admitted → ∃ r phase,
      step s = .next { moveTaken s with
        caller := c, lock := .held c, req := some r, phase := phase, todo := openingActions i } ∧
      (i = .init → r.op = .init ∧ phase = .config) ∧
      (∀ a v, i = .write a v →
        r = { op := .write, addr := a.setWidth 8, data := v, caller := c, out := 0 } ∧ phase = .cmd) ∧
      (∀ a l o, i = .read a l o →
        r = { op := .read, addr := a.setWidth 8, data := l, caller := c, out := o } ∧ phase = .cmd) ∧
      (i = .shutdown → r.op = .shutdown ∧ phase = .final) ∧ r.caller = c)

/-- R79: a view that shows TraceFlag goes on showing it as long as TraceFlag keeps its value, whatever step is made. -/
def Obligations.CurrentViewStaysCurrent : Prop :=
  ∀ (s t : State) (d : Nat), d < s.callers.length → viewOf s d = s.trace → step s = .next t → t.trace = s.trace →
    viewOf t d = t.trace

/-- R79: where Propagate is weakly fair for a caller, a value that stays in TraceFlag reaches that caller's view (log entry
15). -/
def Obligations.StayingFlagReachesView : Prop :=
  ∀ (sched : Nat → Move) (run : Nat → State) (d : Nat) (enable : Bool), Execution sched run → FairPropagate sched d →
    d < (run 0).callers.length → (∀ k, (run k).trace = enable) → ∃ k, viewOf (run k) d = enable

/-! ### Reset and invariants -/

/-- R220: the state after construction with any parameters, field by field, and the defaults of R7 at reset: 500000 Hz, a
32-bit counter, TRACE_RESET false, RECONFIG_ON_REINIT true, LOCK_FAIR false, at least one caller. That S.cmd, S.resp and S.rn
are zero is the model's choice (log entry 6) and is not said here. -/
def Obligations.ConstructedState : Prop :=
  ∀ p : Params,
    (State.construct p).params = p ∧ (State.construct p).estate = .uninitialized ∧
    (State.construct p).phase = .idle ∧ (State.construct p).errcnt = 0 ∧ (State.construct p).trace = p.traceReset ∧
    (∀ c, c < p.ncallers → viewOf (State.construct p) c = p.traceReset ∧ pendingOf (State.construct p) c = none ∧
      resultsOf (State.construct p) c = []) ∧
    (State.construct p).lock = .free ∧ (State.construct p).chan = .unconfigured ∧ (State.construct p).fault = none ∧
    (State.construct p).refused = false ∧ (State.construct p).reasons = [] ∧ (State.construct p).req = none ∧
    (State.construct p).bustrace = [] ∧ (State.construct p).diagtrace = [] ∧
    State.reset = State.construct Config.atReset ∧ State.reset.params.bitrateHz = 500000 ∧
    State.reset.params.errcntW = 32 ∧ State.reset.params.traceReset = false ∧
    State.reset.params.reconfigOnReinit = true ∧ State.reset.params.lockFair = false ∧
    1 ≤ State.reset.params.ncallers

/-- The invariant of the block holds after construction with any parameters. -/
def Obligations.ConstructedHasInvariant : Prop := ∀ p : Params, BlockInv (State.construct p)

/-- Every step of every agent keeps the invariant of the block: where the sequencer stands and who holds the lock (R32, R37,
R43), RECOVERING exactly in RECOVER (R33), READY only on a configured channel (R144), FAULTED exactly with a reason (R39),
the counter within its width (R34), the refusal mark (R40), the memory in canonical form. -/
def Obligations.StepKeepsInvariant : Prop := ∀ s t : State, BlockInv s → step s = .next t → BlockInv t

/-- Under the invariant every step answers a next state: no run of the machine is stopped by a fault or a refusal. No rule
says so: it is the model's choice that a refusal is a next state (log entry 9), that 'no step' in FAULTED, which R194 calls
stuck, is an unchanged state (log entry 10), that a move its agent cannot make leaves the block as it is (log entry 11), and
that the only stop is a request put to a caller that does not exist, which no step does (log entry 16). -/
def Obligations.StepNeverStops : Prop := ∀ s : State, BlockInv s → ∃ t, step s = .next t

/-- R33: RECOVERING holds exactly while the phase is RECOVER: after construction with any parameters, and after every step
of every agent from a state with the invariant of the block. -/
def Obligations.RecoveringIsRecoverPhase : Prop :=
  (∀ p : Params, RecoveringPhase (State.construct p)) ∧
  ∀ s t : State, BlockInv s → step s = .next t → (t.estate = .recovering ↔ t.phase = .recover)

/-- R44, R45, R46 and R40: no step takes anything out of the bus trace, the diagnostic trace, a caller's results or the
refusal record, and no step changes the parameters or the number of callers (R49). -/
def Obligations.RecordsOnlyGrow : Prop :=
  ∀ s t : State, step s = .next t →
    s.bustrace <+: t.bustrace ∧ s.diagtrace <+: t.diagtrace ∧ s.reasons <+: t.reasons ∧
    (s.refused = true → t.refused = true) ∧ (∀ c, resultsOf s c <+: resultsOf t c) ∧ t.params = s.params ∧
    t.callers.length = s.callers.length

/-- R39 and R194: FAULTED is final: no step leaves it, clears its reason, issues a bus action, answers a request, or changes
the counter, the channel, TraceFlag or the memory. -/
def Obligations.FaultedIsFinal : Prop :=
  ∀ s t : State, BlockInv s → s.estate = .faulted → step s = .next t →
    t.estate = .faulted ∧ t.fault = s.fault ∧ s.fault ≠ none ∧ t.bustrace = s.bustrace ∧
    t.diagtrace = s.diagtrace ∧ t.errcnt = s.errcnt ∧ t.chan = s.chan ∧ t.trace = s.trace ∧ t.mem = s.mem ∧
    (∀ c, resultsOf t c = resultsOf s c)

/-- R171 and R220: after SHUTDOWN no step leaves TERMINATED, issues a bus action, or changes the counter, the channel or the
memory. -/
def Obligations.TerminatedIsFinal : Prop :=
  ∀ s t : State, BlockInv s → s.estate = .terminated → step s = .next t →
    t.estate = .terminated ∧ t.bustrace = s.bustrace ∧ t.errcnt = s.errcnt ∧ t.chan = s.chan ∧ t.mem = s.mem ∧
    t.diagtrace = s.diagtrace

/-- R175: every step changes the engine state along the transitions of the state machine, and no other. -/
def Obligations.EngineStateTransitions : Prop :=
  ∀ s t : State, BlockInv s → step s = .next t → mayFollow s.estate t.estate = true

/-- R69, R73 and R77: while a request holds the lock, a step that is not the engine's leaves the request, its phase and its
buffers, the bus trace, the channel, the engine state, the counter and the memory as they are. -/
def Obligations.LockIsolatesRequest : Prop :=
  ∀ (s t : State) (c : Nat), s.lock = .held c → nextMove s ≠ .engine → step s = .next t →
    t.lock = s.lock ∧ t.req = s.req ∧ t.phase = s.phase ∧ t.todo = s.todo ∧ t.estate = s.estate ∧ t.chan = s.chan ∧
    t.errcnt = s.errcnt ∧ t.cmd = s.cmd ∧ t.resp = s.resp ∧ t.rn = s.rn ∧ t.verdict = s.verdict ∧
    t.bustrace = s.bustrace ∧ t.diagtrace = s.diagtrace ∧ t.mem = s.mem ∧ t.fault = s.fault

/-- R143: a step issues a bus action only for an INIT, WRITE or READ that holds the lock, in the engine's turn, or that takes
the free lock in an admitted state, served whole. -/
def Obligations.BusActionsNeedLock : Prop :=
  ∀ s t : State, BlockInv s → step s = .next t → t.bustrace ≠ s.bustrace →
    (nextMove s = .engine ∧ ∃ r, s.req = some r ∧ s.lock = .held r.caller ∧
      (r.op = .init ∨ r.op = .write ∨ r.op = .read)) ∨
    (∃ c call i, nextMove s = .serve c ∧ s.lock = .free ∧ waitingCall s c = some call ∧
      decodeRequest call.word call.out = .ok i ∧ i.takesLock = true ∧ i ≠ .shutdown ∧
      admitRequest i s.estate = .admitted)

/-- R144: WRITE_BYTES and READ_BYTES are issued only on a channel that is CONFIGURED. -/
def Obligations.TransfersNeedConfiguredChannel : Prop :=
  ∀ (s t : State) (issued : List BusEvent), BlockInv s → step s = .next t → t.bustrace = s.bustrace ++ issued →
    issued.any isTransfer = true → s.chan = .configured

/-- R34 and R78: the counter changes only in a READ: in the engine's turn in RESP, CHECK or COMMIT, or where a READ is served
whole on a free lock. -/
def Obligations.CounterWritersAreReads : Prop :=
  ∀ s t : State, BlockInv s → step s = .next t → t.errcnt ≠ s.errcnt →
    (nextMove s = .engine ∧ (∃ r, s.req = some r ∧ r.op = .read) ∧
      (s.phase = .resp ∨ s.phase = .check ∨ s.phase = .commit)) ∨
    (∃ c call addr len, nextMove s = .serve c ∧ s.lock = .free ∧ waitingCall s c = some call ∧
      decodeRequest call.word call.out = .ok (.read addr len call.out))

/-! ### Whole-machine claims -/

/-- R50: carrying out a whole locked request as one step is exact: acquire, then at most ten turns of the engine with no
other move between them, end in the very state that the one step gives; and where the request waits, has no step or is
refused, the two grants agree at once. The request in progress is the record of requestOf, whose OUT of a request other than
READ is the model's choice (log entry 26), as is a READ of length 0, which R92 refuses (log entry 27). -/
def Obligations.AtomicRequestIsExact : Prop :=
  ∀ (i : Instr) (s : State), i.takesLock = true → s.caller < s.callers.length →
    (s.lock = .free ∧ admitRequest i s.estate = .admitted →
      ∃ k a t, k ≤ 10 ∧ beginRequest i s = .next a ∧ a.lock = .held s.caller ∧ a.req = requestOf s.caller i ∧
        engineRun k a = .next t ∧ exec i s = .next t) ∧
    (¬ (s.lock = .free ∧ admitRequest i s.estate = .admitted) → beginRequest i s = exec i s)

/-- R74 and R150: from any point of a request in progress, whatever the bus answers, at most ten turns of the engine end it:
the lock is free, the caller has exactly one more result and no pending request, and no other caller's record has changed. -/
def Obligations.EngineFinishesRequest : Prop :=
  ∀ (s : State) (r : Request), BlockInv s → s.req = some r →
    ∃ k t x, k ≤ 10 ∧ engineRun k s = .next t ∧ t.lock = .free ∧ t.req = none ∧ t.phase = .idle ∧
      pendingOf t r.caller = none ∧ resultsOf t r.caller = resultsOf s r.caller ++ [x] ∧
      ∀ d, d ≠ r.caller → t.callers[d]? = s.callers[d]?

/-- R213 and R212: where the engine's turn is weakly fair, a lock that is held is released at some later point, whatever the
other agents do and the bus answers. R75: with LOCK_FAIR set and the lock's grants fair, a caller that waits for the lock at
some point is granted it at that or a later point: nothing but a grant ends its wait. Both over runs under a schedule (log
entry 15). -/
def Obligations.HeldLockIsReleased : Prop :=
  (∀ (sched : Nat → Move) (run : Nat → State) (k c : Nat), Execution sched run → FairEngine sched → BlockInv (run 0) →
    (run k).lock = .held c → ∃ j, k ≤ j ∧ (run j).lock = .free) ∧
  (∀ (sched : Nat → Move) (run : Nat → State) (k c : Nat), Execution sched run → FairLock sched run c →
    BlockInv (run 0) → (run 0).params.lockFair = true → WaitsForLock (run k) c →
    ∃ j, k ≤ j ∧ GrantsLock (run j) (sched j) c)

/-- R173: TraceFlag never changes protocol behaviour: of two states that differ only in TraceFlag, its views and the
diagnostic trace, every step gives outcomes that differ only there. -/
def Obligations.LoggingNeverInterferes : Prop :=
  ∀ s t : State, withoutLogging s = withoutLogging t →
    continueWith (step s) withoutLogging = continueWith (step t) withoutLogging

/-- The throttle over a run (R167, S6 of spec/95_test_vectors.md): n READs in a row that all end in a checksum mismatch with
a completed recovery, with logging on and the counter at 0, return n times CHECKSUM_ERROR, count to n, append 8 bus actions
each, and emit exactly the events of counts 1, 51, 101, …; 150 of them emit exactly 3. For length 0, which R92 refuses, this
is the model's choice (log entry 27). -/
def Obligations.ThrottleOverFailures : Prop :=
  ∀ (n : Nat) (s : State) (addr : RegAddr) (len : Byte) (out : Nat) (payload : List Byte) (trailer : Byte)
    (later : List Answer),
    s.caller < s.callers.length → s.lock = .free → s.estate = .ready → s.params.reconfigOnReinit = true →
    s.errcnt = 0 → n < 2 ^ s.params.errcntW → viewOf s s.caller = true → payload.length = len.toNat →
    trailer ≠ Config.ck payload →
    s.answers = (List.replicate n [{ ok := true, n := 3, bytes := [] },
      { ok := true, n := len.toNat + 1, bytes := payload ++ [trailer] },
      { ok := true, n := 0, bytes := [] }, { ok := true, n := 0, bytes := [] }]).flatten ++ later →
    ∃ t, repeatExec n (.read addr len out) s = .next t ∧ t.errcnt = n ∧ t.estate = .ready ∧
      resultsOf t s.caller = resultsOf s s.caller ++ List.replicate n .checksumError ∧
      t.bustrace.length = s.bustrace.length + 8 * n ∧ MemoryUnchanged s t ∧
      t.diagtrace = s.diagtrace ++ ((List.range n).filter fun k => (k + 1) % 50 == 1).map (fun k =>
        { kind := .checksumError, count := k + 1, suppressed := decide (50 ≤ k + 1) }) ∧
      (n = 150 → t.diagtrace.length = s.diagtrace.length + 3)

/-- R176, for the requests of one caller carried out whole: if the counter equals, modulo its width, the failed reads since
the last successful one in that caller's results, it does so after one more request. A READ that ends in RESET_ERROR is
counted as failed (log entry 19), and its caller is the only one that reads. For a READ of length 0, which R92 refuses, this
is the model's choice (log entry 27). -/
def Obligations.CounterCountsFailedReads : Prop :=
  ∀ (i : Instr) (s t : State), i.isRequest = true → exec i s = .next t →
    s.errcnt = failedReads (resultsOf s s.caller) % 2 ^ s.params.errcntW →
    t.errcnt = failedReads (resultsOf t s.caller) % 2 ^ t.params.errcntW

/-- R141: a READ issues the recovery exactly once for a checksum mismatch and never otherwise: its close entries are one
where it is answered in full with a wrong trailing byte, and none in every other case; no other request closes the channel.
For length 0, which R92 refuses, this is the model's choice (log entry 27). -/
def Obligations.OneRecoveryPerMismatch : Prop :=
  ∀ (s t : State) (i : Instr), s.caller < s.callers.length → s.lock = .free → s.estate = .ready →
    i.isRequest = true → exec i s = .next t →
    (∀ addr len out, i = .read addr len out →
      closeCount t.bustrace = closeCount s.bustrace +
        (if (s.answerAt 0).n = 3 ∧ (s.answerAt 1).n = len.toNat + 1 ∧
            Config.ck ((s.bytesAt 1 (len.toNat + 1)).take len.toNat) ≠ (s.bytesAt 1 (len.toNat + 1)).getD len.toNat 0
          then 1 else 0)) ∧
    ((∀ addr len out, i ≠ .read addr len out) → closeCount t.bustrace = closeCount s.bustrace)

/-- R164: exactly one DELAY of 1000 us stands between the command WRITE_BYTES and the response READ_BYTES of every READ whose
command write succeeded: the READ's own entries begin with these three. For length 0, which R92 refuses, this is the model's
choice (log entry 27). -/
def Obligations.SettleDelayBetweenCommandAndResponse : Prop :=
  ∀ (s t : State) (addr : RegAddr) (len : Byte) (out : Nat), s.caller < s.callers.length → s.lock = .free →
    s.estate = .ready → (s.answerAt 0).n = 3 → exec (.read addr len out) s = .next t →
    ∃ rest, t.bustrace = s.bustrace ++ [.writeBytes (readFrame addr len).bytes 3, .delay 1000,
      .readBytes (len.toNat + 1) (s.answerAt 1).n (s.bytesAt 1 (len.toNat + 1))] ++ rest ∧
      rest.any isTransfer = false
end

