-- ==== Sys2Proof/Laws/Encode.lean ====
section
/-! SUPPORT. The fields of a request word and of a command frame's byte 0: reading back what was assembled
(spec/30_encoding.md R85, R86, R89). -/

namespace Sys2Proof.Laws

/-- OP of an assembled word. -/
@[simp] theorem reqOp_reqWord (op a d : Byte) : reqOp (reqWord op a d) = op := by
  apply BitVec.eq_of_getLsbD_eq
  intro i hi
  simp only [reqOp, reqWord, BitVec.getLsbD_append, BitVec.getLsbD_extractLsb']
  simp [hi, show ¬ (24 + i < 8) by omega, show ¬ (24 + i - 8 < 8) by omega, show ¬ (24 + i - 8 - 8 < 8) by omega,
    show 24 + i - 8 - 8 - 8 = i by omega]

/-- A of an assembled word. -/
@[simp] theorem reqA_reqWord (op a d : Byte) : reqA (reqWord op a d) = a := by
  apply BitVec.eq_of_getLsbD_eq
  intro i hi
  simp only [reqA, reqWord, BitVec.getLsbD_append, BitVec.getLsbD_extractLsb']
  simp [hi, show ¬ (16 + i < 8) by omega, show ¬ (16 + i - 8 < 8) by omega,
    show 16 + i - 8 - 8 = i by omega]

/-- D of an assembled word. -/
@[simp] theorem reqD_reqWord (op a d : Byte) : reqD (reqWord op a d) = d := by
  apply BitVec.eq_of_getLsbD_eq
  intro i hi
  simp only [reqD, reqWord, BitVec.getLsbD_append, BitVec.getLsbD_extractLsb']
  simp [hi, show ¬ (8 + i < 8) by omega]

/-- Z of an assembled word is 0. -/
@[simp] theorem reqZ_reqWord (op a d : Byte) : reqZ (reqWord op a d) = 0#8 := by
  apply BitVec.eq_of_getLsbD_eq
  intro i hi
  simp only [reqZ, reqWord, BitVec.getLsbD_append, BitVec.getLsbD_extractLsb']
  simp [hi]

/-- A word whose Z is 0 is assembled from its own fields. -/
theorem reqWord_fields (w : ReqWord) (h : reqZ w = 0#8) : reqWord (reqOp w) (reqA w) (reqD w) = w := by
  apply BitVec.eq_of_getLsbD_eq
  intro i hi
  have hz : ∀ j, j < 8 → w.getLsbD j = false := by
    intro j hj
    have := congrArg (fun b => b.getLsbD j) h
    simpa [reqZ, hj] using this
  simp only [reqOp, reqA, reqD, reqWord, BitVec.getLsbD_append, BitVec.getLsbD_extractLsb']
  by_cases h1 : i < 8
  · simp [h1, hz i h1]
  · by_cases h2 : i < 16
    · simp [h1, show i - 8 < 8 by omega, show 8 + (i - 8) = i by omega]
    · by_cases h3 : i < 24
      · simp [h1, show ¬ (i - 8 < 8) by omega, show i - 8 - 8 < 8 by omega, show 16 + (i - 8 - 8) = i by omega]
      · simp [h1, show ¬ (i - 8 < 8) by omega, show ¬ (i - 8 - 8 < 8) by omega, show i - 8 - 8 - 8 < 8 by omega,
          show 24 + (i - 8 - 8 - 8) = i by omega]

/-- The address of a valid address byte is that byte (R91). -/
theorem address_of_valid (b : Byte) (h : addrValid b = true) : (b.setWidth 7).setWidth 8 = b := by
  revert b
  decide

/-- A 7-bit address makes a valid address byte. -/
@[simp] theorem addrValid_address (a : RegAddr) : addrValid (a.setWidth 8) = true := by
  revert a
  decide

/-- An address byte of a command frame with the write marker: bit 7 set, the address below it (R86). -/
theorem marked_address (a : RegAddr) : (a.setWidth 8 ||| Config.writeFlag).setWidth 7 = a ∧
    (a.setWidth 8 ||| Config.writeFlag).getLsbD 7 = true ∧ (a.setWidth 8 : Byte).getLsbD 7 = false := by
  revert a
  decide

/-- The write marker adds 128 to the address (R85). -/
theorem marked_address_toNat (a : RegAddr) : (a.setWidth 8 ||| Config.writeFlag : Byte).toNat = a.toNat + 128 := by
  revert a
  decide

/-- A byte with one bit flipped is another byte (spec/95_test_vectors.md K2). -/
theorem flipped_ne (x : Byte) : x ^^^ 1#8 ≠ x := by
  revert x
  decide

end Sys2Proof.Laws
end

