-- ==== Sys2Proof/Laws/Invariant.lean ====
section
/-! SUPPORT. What the invariant of the block says in one state. -/

namespace Sys2Proof.Laws

open Sys2Proof.Machine

/-- With a free lock nothing is in progress. -/
theorem idle_of_free {s : State} (h : BlockInv s) (hl : s.lock = .free) :
    s.req = none ∧ s.phase = .idle ∧ s.todo = [] ∧ s.estate ≠ .recovering := by
  have hs := h.sequencer
  cases hr : s.req with
  | none =>
    simp only [SequencerPoint, hr] at hs
    exact ⟨rfl, hs.1, hs.2.2.1, hs.2.2.2⟩
  | some r =>
    simp only [SequencerPoint, hr, hl] at hs
    exact absurd hs.1 nofun

/-- With a request in progress its caller holds the lock, exists, and the phase is one of the request's. -/
theorem point_of_request {s : State} {r : Request} (h : BlockInv s) (hr : s.req = some r) :
    s.lock = .held r.caller ∧ r.caller < s.callers.length ∧ PhasePoint s r := by
  have hs := h.sequencer
  simpa only [SequencerPoint, hr] using hs

/-- RECOVERING exactly in RECOVER (spec/10_state.md R33). -/
theorem recoveringPhase_of_inv {s : State} (h : BlockInv s) : RecoveringPhase s := by
  have hs := h.sequencer
  cases hr : s.req with
  | none =>
    simp only [SequencerPoint, hr] at hs
    simp [RecoveringPhase, hs]
  | some r =>
    obtain ⟨-, -, hp⟩ := point_of_request h hr
    cases hph : s.phase <;> simp only [PhasePoint, hph] at hp <;> simp only [RecoveringPhase, hph]
    case config => rcases hp.2.1 with he | he <;> simp [he]
    case final => rcases hp.2.1 with he | he | he <;> simp [he]
    all_goals simp [hp.2.1]

end Sys2Proof.Laws
end

