-- ==== Sys2Proof/Laws/State.lean ====
section
/-! SUPPORT. Beside State: for each named update, what each field of the state is after it, so that no later proof unfolds
a record update; and which updates leave the bus's answers and the callers' views as they are. -/

namespace Sys2Proof.Laws

open Sys2Proof.Machine

/-! ### drawn -/

@[simp] theorem drawn_params (s : State) :
    (drawn s).params = s.params := rfl
@[simp] theorem drawn_phase (s : State) :
    (drawn s).phase = s.phase := rfl
@[simp] theorem drawn_estate (s : State) :
    (drawn s).estate = s.estate := rfl
@[simp] theorem drawn_errcnt (s : State) :
    (drawn s).errcnt = s.errcnt := rfl
@[simp] theorem drawn_trace (s : State) :
    (drawn s).trace = s.trace := rfl
@[simp] theorem drawn_callers (s : State) :
    (drawn s).callers = s.callers := rfl
@[simp] theorem drawn_lock (s : State) :
    (drawn s).lock = s.lock := rfl
@[simp] theorem drawn_chan (s : State) :
    (drawn s).chan = s.chan := rfl
@[simp] theorem drawn_fault (s : State) :
    (drawn s).fault = s.fault := rfl
@[simp] theorem drawn_refused (s : State) :
    (drawn s).refused = s.refused := rfl
@[simp] theorem drawn_reasons (s : State) :
    (drawn s).reasons = s.reasons := rfl
@[simp] theorem drawn_cmd (s : State) :
    (drawn s).cmd = s.cmd := rfl
@[simp] theorem drawn_resp (s : State) :
    (drawn s).resp = s.resp := rfl
@[simp] theorem drawn_rn (s : State) :
    (drawn s).rn = s.rn := rfl
@[simp] theorem drawn_req (s : State) :
    (drawn s).req = s.req := rfl
@[simp] theorem drawn_bustrace (s : State) :
    (drawn s).bustrace = s.bustrace := rfl
@[simp] theorem drawn_diagtrace (s : State) :
    (drawn s).diagtrace = s.diagtrace := rfl
@[simp] theorem drawn_mem (s : State) :
    (drawn s).mem = s.mem := rfl
@[simp] theorem drawn_todo (s : State) :
    (drawn s).todo = s.todo := rfl
@[simp] theorem drawn_verdict (s : State) :
    (drawn s).verdict = s.verdict := rfl
@[simp] theorem drawn_caller (s : State) :
    (drawn s).caller = s.caller := rfl
@[simp] theorem drawn_moves (s : State) :
    (drawn s).moves = s.moves := rfl
@[simp] theorem drawn_answers (s : State) :
    (drawn s).answers = s.answers.drop 1 := rfl
@[simp] theorem drawn_draws (s : State) :
    (drawn s).draws = s.drawIndex 1 := rfl
@[simp] theorem drawn_viewOf (s : State) (d : Nat) :
    viewOf (drawn s) d = viewOf s d := rfl
@[simp] theorem drawn_resultsOf (s : State) (d : Nat) :
    resultsOf (drawn s) d = resultsOf s d := rfl
@[simp] theorem drawn_pendingOf (s : State) (d : Nat) :
    pendingOf (drawn s) d = pendingOf s d := rfl
@[simp] theorem drawn_waitingCall (s : State) (d : Nat) :
    waitingCall (drawn s) d = waitingCall s d := rfl

/-! ### record -/

@[simp] theorem record_params (e : BusEvent) (s : State) :
    (record e s).params = s.params := rfl
@[simp] theorem record_phase (e : BusEvent) (s : State) :
    (record e s).phase = s.phase := rfl
@[simp] theorem record_estate (e : BusEvent) (s : State) :
    (record e s).estate = s.estate := rfl
@[simp] theorem record_errcnt (e : BusEvent) (s : State) :
    (record e s).errcnt = s.errcnt := rfl
@[simp] theorem record_trace (e : BusEvent) (s : State) :
    (record e s).trace = s.trace := rfl
@[simp] theorem record_callers (e : BusEvent) (s : State) :
    (record e s).callers = s.callers := rfl
@[simp] theorem record_lock (e : BusEvent) (s : State) :
    (record e s).lock = s.lock := rfl
@[simp] theorem record_chan (e : BusEvent) (s : State) :
    (record e s).chan = s.chan := rfl
@[simp] theorem record_fault (e : BusEvent) (s : State) :
    (record e s).fault = s.fault := rfl
@[simp] theorem record_refused (e : BusEvent) (s : State) :
    (record e s).refused = s.refused := rfl
@[simp] theorem record_reasons (e : BusEvent) (s : State) :
    (record e s).reasons = s.reasons := rfl
@[simp] theorem record_cmd (e : BusEvent) (s : State) :
    (record e s).cmd = s.cmd := rfl
@[simp] theorem record_resp (e : BusEvent) (s : State) :
    (record e s).resp = s.resp := rfl
@[simp] theorem record_rn (e : BusEvent) (s : State) :
    (record e s).rn = s.rn := rfl
@[simp] theorem record_req (e : BusEvent) (s : State) :
    (record e s).req = s.req := rfl
@[simp] theorem record_bustrace (e : BusEvent) (s : State) :
    (record e s).bustrace = s.bustrace ++ [e] := rfl
@[simp] theorem record_diagtrace (e : BusEvent) (s : State) :
    (record e s).diagtrace = s.diagtrace := rfl
@[simp] theorem record_mem (e : BusEvent) (s : State) :
    (record e s).mem = s.mem := rfl
@[simp] theorem record_todo (e : BusEvent) (s : State) :
    (record e s).todo = s.todo := rfl
@[simp] theorem record_verdict (e : BusEvent) (s : State) :
    (record e s).verdict = s.verdict := rfl
@[simp] theorem record_caller (e : BusEvent) (s : State) :
    (record e s).caller = s.caller := rfl
@[simp] theorem record_moves (e : BusEvent) (s : State) :
    (record e s).moves = s.moves := rfl
@[simp] theorem record_answers (e : BusEvent) (s : State) :
    (record e s).answers = s.answers := rfl
@[simp] theorem record_draws (e : BusEvent) (s : State) :
    (record e s).draws = s.draws := rfl
@[simp] theorem record_answerAt (e : BusEvent) (s : State) (j : Nat) :
    (record e s).answerAt j = s.answerAt j := rfl
@[simp] theorem record_drawIndex (e : BusEvent) (s : State) (j : Nat) :
    (record e s).drawIndex j = s.drawIndex j := rfl
@[simp] theorem record_bytesAt (e : BusEvent) (s : State) (j n : Nat) :
    (record e s).bytesAt j n = s.bytesAt j n := rfl
@[simp] theorem record_viewOf (e : BusEvent) (s : State) (d : Nat) :
    viewOf (record e s) d = viewOf s d := rfl
@[simp] theorem record_resultsOf (e : BusEvent) (s : State) (d : Nat) :
    resultsOf (record e s) d = resultsOf s d := rfl
@[simp] theorem record_pendingOf (e : BusEvent) (s : State) (d : Nat) :
    pendingOf (record e s) d = pendingOf s d := rfl
@[simp] theorem record_waitingCall (e : BusEvent) (s : State) (d : Nat) :
    waitingCall (record e s) d = waitingCall s d := rfl

/-! ### setPhase -/

@[simp] theorem setPhase_params (p : Phase) (s : State) :
    (setPhase p s).params = s.params := rfl
@[simp] theorem setPhase_phase (p : Phase) (s : State) :
    (setPhase p s).phase = p := rfl
@[simp] theorem setPhase_estate (p : Phase) (s : State) :
    (setPhase p s).estate = s.estate := rfl
@[simp] theorem setPhase_errcnt (p : Phase) (s : State) :
    (setPhase p s).errcnt = s.errcnt := rfl
@[simp] theorem setPhase_trace (p : Phase) (s : State) :
    (setPhase p s).trace = s.trace := rfl
@[simp] theorem setPhase_callers (p : Phase) (s : State) :
    (setPhase p s).callers = s.callers := rfl
@[simp] theorem setPhase_lock (p : Phase) (s : State) :
    (setPhase p s).lock = s.lock := rfl
@[simp] theorem setPhase_chan (p : Phase) (s : State) :
    (setPhase p s).chan = s.chan := rfl
@[simp] theorem setPhase_fault (p : Phase) (s : State) :
    (setPhase p s).fault = s.fault := rfl
@[simp] theorem setPhase_refused (p : Phase) (s : State) :
    (setPhase p s).refused = s.refused := rfl
@[simp] theorem setPhase_reasons (p : Phase) (s : State) :
    (setPhase p s).reasons = s.reasons := rfl
@[simp] theorem setPhase_cmd (p : Phase) (s : State) :
    (setPhase p s).cmd = s.cmd := rfl
@[simp] theorem setPhase_resp (p : Phase) (s : State) :
    (setPhase p s).resp = s.resp := rfl
@[simp] theorem setPhase_rn (p : Phase) (s : State) :
    (setPhase p s).rn = s.rn := rfl
@[simp] theorem setPhase_req (p : Phase) (s : State) :
    (setPhase p s).req = s.req := rfl
@[simp] theorem setPhase_bustrace (p : Phase) (s : State) :
    (setPhase p s).bustrace = s.bustrace := rfl
@[simp] theorem setPhase_diagtrace (p : Phase) (s : State) :
    (setPhase p s).diagtrace = s.diagtrace := rfl
@[simp] theorem setPhase_mem (p : Phase) (s : State) :
    (setPhase p s).mem = s.mem := rfl
@[simp] theorem setPhase_todo (p : Phase) (s : State) :
    (setPhase p s).todo = s.todo := rfl
@[simp] theorem setPhase_verdict (p : Phase) (s : State) :
    (setPhase p s).verdict = s.verdict := rfl
@[simp] theorem setPhase_caller (p : Phase) (s : State) :
    (setPhase p s).caller = s.caller := rfl
@[simp] theorem setPhase_moves (p : Phase) (s : State) :
    (setPhase p s).moves = s.moves := rfl
@[simp] theorem setPhase_answers (p : Phase) (s : State) :
    (setPhase p s).answers = s.answers := rfl
@[simp] theorem setPhase_draws (p : Phase) (s : State) :
    (setPhase p s).draws = s.draws := rfl
@[simp] theorem setPhase_answerAt (p : Phase) (s : State) (j : Nat) :
    (setPhase p s).answerAt j = s.answerAt j := rfl
@[simp] theorem setPhase_drawIndex (p : Phase) (s : State) (j : Nat) :
    (setPhase p s).drawIndex j = s.drawIndex j := rfl
@[simp] theorem setPhase_bytesAt (p : Phase) (s : State) (j n : Nat) :
    (setPhase p s).bytesAt j n = s.bytesAt j n := rfl
@[simp] theorem setPhase_viewOf (p : Phase) (s : State) (d : Nat) :
    viewOf (setPhase p s) d = viewOf s d := rfl
@[simp] theorem setPhase_resultsOf (p : Phase) (s : State) (d : Nat) :
    resultsOf (setPhase p s) d = resultsOf s d := rfl
@[simp] theorem setPhase_pendingOf (p : Phase) (s : State) (d : Nat) :
    pendingOf (setPhase p s) d = pendingOf s d := rfl
@[simp] theorem setPhase_waitingCall (p : Phase) (s : State) (d : Nat) :
    waitingCall (setPhase p s) d = waitingCall s d := rfl

/-! ### setEstate -/

@[simp] theorem setEstate_params (e : EngineState) (s : State) :
    (setEstate e s).params = s.params := rfl
@[simp] theorem setEstate_phase (e : EngineState) (s : State) :
    (setEstate e s).phase = s.phase := rfl
@[simp] theorem setEstate_estate (e : EngineState) (s : State) :
    (setEstate e s).estate = e := rfl
@[simp] theorem setEstate_errcnt (e : EngineState) (s : State) :
    (setEstate e s).errcnt = s.errcnt := rfl
@[simp] theorem setEstate_trace (e : EngineState) (s : State) :
    (setEstate e s).trace = s.trace := rfl
@[simp] theorem setEstate_callers (e : EngineState) (s : State) :
    (setEstate e s).callers = s.callers := rfl
@[simp] theorem setEstate_lock (e : EngineState) (s : State) :
    (setEstate e s).lock = s.lock := rfl
@[simp] theorem setEstate_chan (e : EngineState) (s : State) :
    (setEstate e s).chan = s.chan := rfl
@[simp] theorem setEstate_fault (e : EngineState) (s : State) :
    (setEstate e s).fault = s.fault := rfl
@[simp] theorem setEstate_refused (e : EngineState) (s : State) :
    (setEstate e s).refused = s.refused := rfl
@[simp] theorem setEstate_reasons (e : EngineState) (s : State) :
    (setEstate e s).reasons = s.reasons := rfl
@[simp] theorem setEstate_cmd (e : EngineState) (s : State) :
    (setEstate e s).cmd = s.cmd := rfl
@[simp] theorem setEstate_resp (e : EngineState) (s : State) :
    (setEstate e s).resp = s.resp := rfl
@[simp] theorem setEstate_rn (e : EngineState) (s : State) :
    (setEstate e s).rn = s.rn := rfl
@[simp] theorem setEstate_req (e : EngineState) (s : State) :
    (setEstate e s).req = s.req := rfl
@[simp] theorem setEstate_bustrace (e : EngineState) (s : State) :
    (setEstate e s).bustrace = s.bustrace := rfl
@[simp] theorem setEstate_diagtrace (e : EngineState) (s : State) :
    (setEstate e s).diagtrace = s.diagtrace := rfl
@[simp] theorem setEstate_mem (e : EngineState) (s : State) :
    (setEstate e s).mem = s.mem := rfl
@[simp] theorem setEstate_todo (e : EngineState) (s : State) :
    (setEstate e s).todo = s.todo := rfl
@[simp] theorem setEstate_verdict (e : EngineState) (s : State) :
    (setEstate e s).verdict = s.verdict := rfl
@[simp] theorem setEstate_caller (e : EngineState) (s : State) :
    (setEstate e s).caller = s.caller := rfl
@[simp] theorem setEstate_moves (e : EngineState) (s : State) :
    (setEstate e s).moves = s.moves := rfl
@[simp] theorem setEstate_answers (e : EngineState) (s : State) :
    (setEstate e s).answers = s.answers := rfl
@[simp] theorem setEstate_draws (e : EngineState) (s : State) :
    (setEstate e s).draws = s.draws := rfl
@[simp] theorem setEstate_answerAt (e : EngineState) (s : State) (j : Nat) :
    (setEstate e s).answerAt j = s.answerAt j := rfl
@[simp] theorem setEstate_drawIndex (e : EngineState) (s : State) (j : Nat) :
    (setEstate e s).drawIndex j = s.drawIndex j := rfl
@[simp] theorem setEstate_bytesAt (e : EngineState) (s : State) (j n : Nat) :
    (setEstate e s).bytesAt j n = s.bytesAt j n := rfl
@[simp] theorem setEstate_viewOf (e : EngineState) (s : State) (d : Nat) :
    viewOf (setEstate e s) d = viewOf s d := rfl
@[simp] theorem setEstate_resultsOf (e : EngineState) (s : State) (d : Nat) :
    resultsOf (setEstate e s) d = resultsOf s d := rfl
@[simp] theorem setEstate_pendingOf (e : EngineState) (s : State) (d : Nat) :
    pendingOf (setEstate e s) d = pendingOf s d := rfl
@[simp] theorem setEstate_waitingCall (e : EngineState) (s : State) (d : Nat) :
    waitingCall (setEstate e s) d = waitingCall s d := rfl

/-! ### setCmd -/

@[simp] theorem setCmd_params (f : CmdFrame) (s : State) :
    (setCmd f s).params = s.params := rfl
@[simp] theorem setCmd_phase (f : CmdFrame) (s : State) :
    (setCmd f s).phase = s.phase := rfl
@[simp] theorem setCmd_estate (f : CmdFrame) (s : State) :
    (setCmd f s).estate = s.estate := rfl
@[simp] theorem setCmd_errcnt (f : CmdFrame) (s : State) :
    (setCmd f s).errcnt = s.errcnt := rfl
@[simp] theorem setCmd_trace (f : CmdFrame) (s : State) :
    (setCmd f s).trace = s.trace := rfl
@[simp] theorem setCmd_callers (f : CmdFrame) (s : State) :
    (setCmd f s).callers = s.callers := rfl
@[simp] theorem setCmd_lock (f : CmdFrame) (s : State) :
    (setCmd f s).lock = s.lock := rfl
@[simp] theorem setCmd_chan (f : CmdFrame) (s : State) :
    (setCmd f s).chan = s.chan := rfl
@[simp] theorem setCmd_fault (f : CmdFrame) (s : State) :
    (setCmd f s).fault = s.fault := rfl
@[simp] theorem setCmd_refused (f : CmdFrame) (s : State) :
    (setCmd f s).refused = s.refused := rfl
@[simp] theorem setCmd_reasons (f : CmdFrame) (s : State) :
    (setCmd f s).reasons = s.reasons := rfl
@[simp] theorem setCmd_cmd (f : CmdFrame) (s : State) :
    (setCmd f s).cmd = f := rfl
@[simp] theorem setCmd_resp (f : CmdFrame) (s : State) :
    (setCmd f s).resp = s.resp := rfl
@[simp] theorem setCmd_rn (f : CmdFrame) (s : State) :
    (setCmd f s).rn = s.rn := rfl
@[simp] theorem setCmd_req (f : CmdFrame) (s : State) :
    (setCmd f s).req = s.req := rfl
@[simp] theorem setCmd_bustrace (f : CmdFrame) (s : State) :
    (setCmd f s).bustrace = s.bustrace := rfl
@[simp] theorem setCmd_diagtrace (f : CmdFrame) (s : State) :
    (setCmd f s).diagtrace = s.diagtrace := rfl
@[simp] theorem setCmd_mem (f : CmdFrame) (s : State) :
    (setCmd f s).mem = s.mem := rfl
@[simp] theorem setCmd_todo (f : CmdFrame) (s : State) :
    (setCmd f s).todo = s.todo := rfl
@[simp] theorem setCmd_verdict (f : CmdFrame) (s : State) :
    (setCmd f s).verdict = s.verdict := rfl
@[simp] theorem setCmd_caller (f : CmdFrame) (s : State) :
    (setCmd f s).caller = s.caller := rfl
@[simp] theorem setCmd_moves (f : CmdFrame) (s : State) :
    (setCmd f s).moves = s.moves := rfl
@[simp] theorem setCmd_answers (f : CmdFrame) (s : State) :
    (setCmd f s).answers = s.answers := rfl
@[simp] theorem setCmd_draws (f : CmdFrame) (s : State) :
    (setCmd f s).draws = s.draws := rfl
@[simp] theorem setCmd_answerAt (f : CmdFrame) (s : State) (j : Nat) :
    (setCmd f s).answerAt j = s.answerAt j := rfl
@[simp] theorem setCmd_drawIndex (f : CmdFrame) (s : State) (j : Nat) :
    (setCmd f s).drawIndex j = s.drawIndex j := rfl
@[simp] theorem setCmd_bytesAt (f : CmdFrame) (s : State) (j n : Nat) :
    (setCmd f s).bytesAt j n = s.bytesAt j n := rfl
@[simp] theorem setCmd_viewOf (f : CmdFrame) (s : State) (d : Nat) :
    viewOf (setCmd f s) d = viewOf s d := rfl
@[simp] theorem setCmd_resultsOf (f : CmdFrame) (s : State) (d : Nat) :
    resultsOf (setCmd f s) d = resultsOf s d := rfl
@[simp] theorem setCmd_pendingOf (f : CmdFrame) (s : State) (d : Nat) :
    pendingOf (setCmd f s) d = pendingOf s d := rfl
@[simp] theorem setCmd_waitingCall (f : CmdFrame) (s : State) (d : Nat) :
    waitingCall (setCmd f s) d = waitingCall s d := rfl

/-! ### setTodo -/

@[simp] theorem setTodo_params (l : List Instr) (s : State) :
    (setTodo l s).params = s.params := rfl
@[simp] theorem setTodo_phase (l : List Instr) (s : State) :
    (setTodo l s).phase = s.phase := rfl
@[simp] theorem setTodo_estate (l : List Instr) (s : State) :
    (setTodo l s).estate = s.estate := rfl
@[simp] theorem setTodo_errcnt (l : List Instr) (s : State) :
    (setTodo l s).errcnt = s.errcnt := rfl
@[simp] theorem setTodo_trace (l : List Instr) (s : State) :
    (setTodo l s).trace = s.trace := rfl
@[simp] theorem setTodo_callers (l : List Instr) (s : State) :
    (setTodo l s).callers = s.callers := rfl
@[simp] theorem setTodo_lock (l : List Instr) (s : State) :
    (setTodo l s).lock = s.lock := rfl
@[simp] theorem setTodo_chan (l : List Instr) (s : State) :
    (setTodo l s).chan = s.chan := rfl
@[simp] theorem setTodo_fault (l : List Instr) (s : State) :
    (setTodo l s).fault = s.fault := rfl
@[simp] theorem setTodo_refused (l : List Instr) (s : State) :
    (setTodo l s).refused = s.refused := rfl
@[simp] theorem setTodo_reasons (l : List Instr) (s : State) :
    (setTodo l s).reasons = s.reasons := rfl
@[simp] theorem setTodo_cmd (l : List Instr) (s : State) :
    (setTodo l s).cmd = s.cmd := rfl
@[simp] theorem setTodo_resp (l : List Instr) (s : State) :
    (setTodo l s).resp = s.resp := rfl
@[simp] theorem setTodo_rn (l : List Instr) (s : State) :
    (setTodo l s).rn = s.rn := rfl
@[simp] theorem setTodo_req (l : List Instr) (s : State) :
    (setTodo l s).req = s.req := rfl
@[simp] theorem setTodo_bustrace (l : List Instr) (s : State) :
    (setTodo l s).bustrace = s.bustrace := rfl
@[simp] theorem setTodo_diagtrace (l : List Instr) (s : State) :
    (setTodo l s).diagtrace = s.diagtrace := rfl
@[simp] theorem setTodo_mem (l : List Instr) (s : State) :
    (setTodo l s).mem = s.mem := rfl
@[simp] theorem setTodo_todo (l : List Instr) (s : State) :
    (setTodo l s).todo = l := rfl
@[simp] theorem setTodo_verdict (l : List Instr) (s : State) :
    (setTodo l s).verdict = s.verdict := rfl
@[simp] theorem setTodo_caller (l : List Instr) (s : State) :
    (setTodo l s).caller = s.caller := rfl
@[simp] theorem setTodo_moves (l : List Instr) (s : State) :
    (setTodo l s).moves = s.moves := rfl
@[simp] theorem setTodo_answers (l : List Instr) (s : State) :
    (setTodo l s).answers = s.answers := rfl
@[simp] theorem setTodo_draws (l : List Instr) (s : State) :
    (setTodo l s).draws = s.draws := rfl
@[simp] theorem setTodo_answerAt (l : List Instr) (s : State) (j : Nat) :
    (setTodo l s).answerAt j = s.answerAt j := rfl
@[simp] theorem setTodo_drawIndex (l : List Instr) (s : State) (j : Nat) :
    (setTodo l s).drawIndex j = s.drawIndex j := rfl
@[simp] theorem setTodo_bytesAt (l : List Instr) (s : State) (j n : Nat) :
    (setTodo l s).bytesAt j n = s.bytesAt j n := rfl
@[simp] theorem setTodo_viewOf (l : List Instr) (s : State) (d : Nat) :
    viewOf (setTodo l s) d = viewOf s d := rfl
@[simp] theorem setTodo_resultsOf (l : List Instr) (s : State) (d : Nat) :
    resultsOf (setTodo l s) d = resultsOf s d := rfl
@[simp] theorem setTodo_pendingOf (l : List Instr) (s : State) (d : Nat) :
    pendingOf (setTodo l s) d = pendingOf s d := rfl
@[simp] theorem setTodo_waitingCall (l : List Instr) (s : State) (d : Nat) :
    waitingCall (setTodo l s) d = waitingCall s d := rfl

/-! ### storeBytes -/

@[simp] theorem storeBytes_params (out : Nat) (bytes : List Byte) (s : State) :
    (storeBytes out bytes s).params = s.params := rfl
@[simp] theorem storeBytes_phase (out : Nat) (bytes : List Byte) (s : State) :
    (storeBytes out bytes s).phase = s.phase := rfl
@[simp] theorem storeBytes_estate (out : Nat) (bytes : List Byte) (s : State) :
    (storeBytes out bytes s).estate = s.estate := rfl
@[simp] theorem storeBytes_errcnt (out : Nat) (bytes : List Byte) (s : State) :
    (storeBytes out bytes s).errcnt = s.errcnt := rfl
@[simp] theorem storeBytes_trace (out : Nat) (bytes : List Byte) (s : State) :
    (storeBytes out bytes s).trace = s.trace := rfl
@[simp] theorem storeBytes_callers (out : Nat) (bytes : List Byte) (s : State) :
    (storeBytes out bytes s).callers = s.callers := rfl
@[simp] theorem storeBytes_lock (out : Nat) (bytes : List Byte) (s : State) :
    (storeBytes out bytes s).lock = s.lock := rfl
@[simp] theorem storeBytes_chan (out : Nat) (bytes : List Byte) (s : State) :
    (storeBytes out bytes s).chan = s.chan := rfl
@[simp] theorem storeBytes_fault (out : Nat) (bytes : List Byte) (s : State) :
    (storeBytes out bytes s).fault = s.fault := rfl
@[simp] theorem storeBytes_refused (out : Nat) (bytes : List Byte) (s : State) :
    (storeBytes out bytes s).refused = s.refused := rfl
@[simp] theorem storeBytes_reasons (out : Nat) (bytes : List Byte) (s : State) :
    (storeBytes out bytes s).reasons = s.reasons := rfl
@[simp] theorem storeBytes_cmd (out : Nat) (bytes : List Byte) (s : State) :
    (storeBytes out bytes s).cmd = s.cmd := rfl
@[simp] theorem storeBytes_resp (out : Nat) (bytes : List Byte) (s : State) :
    (storeBytes out bytes s).resp = s.resp := rfl
@[simp] theorem storeBytes_rn (out : Nat) (bytes : List Byte) (s : State) :
    (storeBytes out bytes s).rn = s.rn := rfl
@[simp] theorem storeBytes_req (out : Nat) (bytes : List Byte) (s : State) :
    (storeBytes out bytes s).req = s.req := rfl
@[simp] theorem storeBytes_bustrace (out : Nat) (bytes : List Byte) (s : State) :
    (storeBytes out bytes s).bustrace = s.bustrace := rfl
@[simp] theorem storeBytes_diagtrace (out : Nat) (bytes : List Byte) (s : State) :
    (storeBytes out bytes s).diagtrace = s.diagtrace := rfl
@[simp] theorem storeBytes_mem (out : Nat) (bytes : List Byte) (s : State) :
    (storeBytes out bytes s).mem = Memory.writeBytes s.mem out bytes := rfl
@[simp] theorem storeBytes_todo (out : Nat) (bytes : List Byte) (s : State) :
    (storeBytes out bytes s).todo = s.todo := rfl
@[simp] theorem storeBytes_verdict (out : Nat) (bytes : List Byte) (s : State) :
    (storeBytes out bytes s).verdict = s.verdict := rfl
@[simp] theorem storeBytes_caller (out : Nat) (bytes : List Byte) (s : State) :
    (storeBytes out bytes s).caller = s.caller := rfl
@[simp] theorem storeBytes_moves (out : Nat) (bytes : List Byte) (s : State) :
    (storeBytes out bytes s).moves = s.moves := rfl
@[simp] theorem storeBytes_answers (out : Nat) (bytes : List Byte) (s : State) :
    (storeBytes out bytes s).answers = s.answers := rfl
@[simp] theorem storeBytes_draws (out : Nat) (bytes : List Byte) (s : State) :
    (storeBytes out bytes s).draws = s.draws := rfl
@[simp] theorem storeBytes_answerAt (out : Nat) (bytes : List Byte) (s : State) (j : Nat) :
    (storeBytes out bytes s).answerAt j = s.answerAt j := rfl
@[simp] theorem storeBytes_drawIndex (out : Nat) (bytes : List Byte) (s : State) (j : Nat) :
    (storeBytes out bytes s).drawIndex j = s.drawIndex j := rfl
@[simp] theorem storeBytes_bytesAt (out : Nat) (bytes : List Byte) (s : State) (j n : Nat) :
    (storeBytes out bytes s).bytesAt j n = s.bytesAt j n := rfl
@[simp] theorem storeBytes_viewOf (out : Nat) (bytes : List Byte) (s : State) (d : Nat) :
    viewOf (storeBytes out bytes s) d = viewOf s d := rfl
@[simp] theorem storeBytes_resultsOf (out : Nat) (bytes : List Byte) (s : State) (d : Nat) :
    resultsOf (storeBytes out bytes s) d = resultsOf s d := rfl
@[simp] theorem storeBytes_pendingOf (out : Nat) (bytes : List Byte) (s : State) (d : Nat) :
    pendingOf (storeBytes out bytes s) d = pendingOf s d := rfl
@[simp] theorem storeBytes_waitingCall (out : Nat) (bytes : List Byte) (s : State) (d : Nat) :
    waitingCall (storeBytes out bytes s) d = waitingCall s d := rfl

/-! ### updateCaller -/

@[simp] theorem updateCaller_params (c : Nat) (f : Caller → Caller) (s : State) :
    (updateCaller c f s).params = s.params := rfl
@[simp] theorem updateCaller_phase (c : Nat) (f : Caller → Caller) (s : State) :
    (updateCaller c f s).phase = s.phase := rfl
@[simp] theorem updateCaller_estate (c : Nat) (f : Caller → Caller) (s : State) :
    (updateCaller c f s).estate = s.estate := rfl
@[simp] theorem updateCaller_errcnt (c : Nat) (f : Caller → Caller) (s : State) :
    (updateCaller c f s).errcnt = s.errcnt := rfl
@[simp] theorem updateCaller_trace (c : Nat) (f : Caller → Caller) (s : State) :
    (updateCaller c f s).trace = s.trace := rfl
@[simp] theorem updateCaller_callers (c : Nat) (f : Caller → Caller) (s : State) :
    (updateCaller c f s).callers = s.callers.modify c f := rfl
@[simp] theorem updateCaller_lock (c : Nat) (f : Caller → Caller) (s : State) :
    (updateCaller c f s).lock = s.lock := rfl
@[simp] theorem updateCaller_chan (c : Nat) (f : Caller → Caller) (s : State) :
    (updateCaller c f s).chan = s.chan := rfl
@[simp] theorem updateCaller_fault (c : Nat) (f : Caller → Caller) (s : State) :
    (updateCaller c f s).fault = s.fault := rfl
@[simp] theorem updateCaller_refused (c : Nat) (f : Caller → Caller) (s : State) :
    (updateCaller c f s).refused = s.refused := rfl
@[simp] theorem updateCaller_reasons (c : Nat) (f : Caller → Caller) (s : State) :
    (updateCaller c f s).reasons = s.reasons := rfl
@[simp] theorem updateCaller_cmd (c : Nat) (f : Caller → Caller) (s : State) :
    (updateCaller c f s).cmd = s.cmd := rfl
@[simp] theorem updateCaller_resp (c : Nat) (f : Caller → Caller) (s : State) :
    (updateCaller c f s).resp = s.resp := rfl
@[simp] theorem updateCaller_rn (c : Nat) (f : Caller → Caller) (s : State) :
    (updateCaller c f s).rn = s.rn := rfl
@[simp] theorem updateCaller_req (c : Nat) (f : Caller → Caller) (s : State) :
    (updateCaller c f s).req = s.req := rfl
@[simp] theorem updateCaller_bustrace (c : Nat) (f : Caller → Caller) (s : State) :
    (updateCaller c f s).bustrace = s.bustrace := rfl
@[simp] theorem updateCaller_diagtrace (c : Nat) (f : Caller → Caller) (s : State) :
    (updateCaller c f s).diagtrace = s.diagtrace := rfl
@[simp] theorem updateCaller_mem (c : Nat) (f : Caller → Caller) (s : State) :
    (updateCaller c f s).mem = s.mem := rfl
@[simp] theorem updateCaller_todo (c : Nat) (f : Caller → Caller) (s : State) :
    (updateCaller c f s).todo = s.todo := rfl
@[simp] theorem updateCaller_verdict (c : Nat) (f : Caller → Caller) (s : State) :
    (updateCaller c f s).verdict = s.verdict := rfl
@[simp] theorem updateCaller_caller (c : Nat) (f : Caller → Caller) (s : State) :
    (updateCaller c f s).caller = s.caller := rfl
@[simp] theorem updateCaller_moves (c : Nat) (f : Caller → Caller) (s : State) :
    (updateCaller c f s).moves = s.moves := rfl
@[simp] theorem updateCaller_answers (c : Nat) (f : Caller → Caller) (s : State) :
    (updateCaller c f s).answers = s.answers := rfl
@[simp] theorem updateCaller_draws (c : Nat) (f : Caller → Caller) (s : State) :
    (updateCaller c f s).draws = s.draws := rfl
@[simp] theorem updateCaller_answerAt (c : Nat) (f : Caller → Caller) (s : State) (j : Nat) :
    (updateCaller c f s).answerAt j = s.answerAt j := rfl
@[simp] theorem updateCaller_drawIndex (c : Nat) (f : Caller → Caller) (s : State) (j : Nat) :
    (updateCaller c f s).drawIndex j = s.drawIndex j := rfl
@[simp] theorem updateCaller_bytesAt (c : Nat) (f : Caller → Caller) (s : State) (j n : Nat) :
    (updateCaller c f s).bytesAt j n = s.bytesAt j n := rfl

/-! ### acquireLock -/

@[simp] theorem acquireLock_params (c : Nat) (i : Instr) (s : State) :
    (acquireLock c i s).params = s.params := rfl
@[simp] theorem acquireLock_phase (c : Nat) (i : Instr) (s : State) :
    (acquireLock c i s).phase = firstPhase i := rfl
@[simp] theorem acquireLock_estate (c : Nat) (i : Instr) (s : State) :
    (acquireLock c i s).estate = s.estate := rfl
@[simp] theorem acquireLock_errcnt (c : Nat) (i : Instr) (s : State) :
    (acquireLock c i s).errcnt = s.errcnt := rfl
@[simp] theorem acquireLock_trace (c : Nat) (i : Instr) (s : State) :
    (acquireLock c i s).trace = s.trace := rfl
@[simp] theorem acquireLock_callers (c : Nat) (i : Instr) (s : State) :
    (acquireLock c i s).callers = s.callers := rfl
@[simp] theorem acquireLock_lock (c : Nat) (i : Instr) (s : State) :
    (acquireLock c i s).lock = .held c := rfl
@[simp] theorem acquireLock_chan (c : Nat) (i : Instr) (s : State) :
    (acquireLock c i s).chan = s.chan := rfl
@[simp] theorem acquireLock_fault (c : Nat) (i : Instr) (s : State) :
    (acquireLock c i s).fault = s.fault := rfl
@[simp] theorem acquireLock_refused (c : Nat) (i : Instr) (s : State) :
    (acquireLock c i s).refused = s.refused := rfl
@[simp] theorem acquireLock_reasons (c : Nat) (i : Instr) (s : State) :
    (acquireLock c i s).reasons = s.reasons := rfl
@[simp] theorem acquireLock_cmd (c : Nat) (i : Instr) (s : State) :
    (acquireLock c i s).cmd = s.cmd := rfl
@[simp] theorem acquireLock_resp (c : Nat) (i : Instr) (s : State) :
    (acquireLock c i s).resp = s.resp := rfl
@[simp] theorem acquireLock_rn (c : Nat) (i : Instr) (s : State) :
    (acquireLock c i s).rn = s.rn := rfl
@[simp] theorem acquireLock_req (c : Nat) (i : Instr) (s : State) :
    (acquireLock c i s).req = requestOf c i := rfl
@[simp] theorem acquireLock_bustrace (c : Nat) (i : Instr) (s : State) :
    (acquireLock c i s).bustrace = s.bustrace := rfl
@[simp] theorem acquireLock_diagtrace (c : Nat) (i : Instr) (s : State) :
    (acquireLock c i s).diagtrace = s.diagtrace := rfl
@[simp] theorem acquireLock_mem (c : Nat) (i : Instr) (s : State) :
    (acquireLock c i s).mem = s.mem := rfl
@[simp] theorem acquireLock_todo (c : Nat) (i : Instr) (s : State) :
    (acquireLock c i s).todo = s.todo := rfl
@[simp] theorem acquireLock_verdict (c : Nat) (i : Instr) (s : State) :
    (acquireLock c i s).verdict = s.verdict := rfl
@[simp] theorem acquireLock_caller (c : Nat) (i : Instr) (s : State) :
    (acquireLock c i s).caller = s.caller := rfl
@[simp] theorem acquireLock_moves (c : Nat) (i : Instr) (s : State) :
    (acquireLock c i s).moves = s.moves := rfl
@[simp] theorem acquireLock_answers (c : Nat) (i : Instr) (s : State) :
    (acquireLock c i s).answers = s.answers := rfl
@[simp] theorem acquireLock_draws (c : Nat) (i : Instr) (s : State) :
    (acquireLock c i s).draws = s.draws := rfl
@[simp] theorem acquireLock_answerAt (c : Nat) (i : Instr) (s : State) (j : Nat) :
    (acquireLock c i s).answerAt j = s.answerAt j := rfl
@[simp] theorem acquireLock_drawIndex (c : Nat) (i : Instr) (s : State) (j : Nat) :
    (acquireLock c i s).drawIndex j = s.drawIndex j := rfl
@[simp] theorem acquireLock_bytesAt (c : Nat) (i : Instr) (s : State) (j n : Nat) :
    (acquireLock c i s).bytesAt j n = s.bytesAt j n := rfl
@[simp] theorem acquireLock_viewOf (c : Nat) (i : Instr) (s : State) (d : Nat) :
    viewOf (acquireLock c i s) d = viewOf s d := rfl
@[simp] theorem acquireLock_resultsOf (c : Nat) (i : Instr) (s : State) (d : Nat) :
    resultsOf (acquireLock c i s) d = resultsOf s d := rfl
@[simp] theorem acquireLock_pendingOf (c : Nat) (i : Instr) (s : State) (d : Nat) :
    pendingOf (acquireLock c i s) d = pendingOf s d := rfl
@[simp] theorem acquireLock_waitingCall (c : Nat) (i : Instr) (s : State) (d : Nat) :
    waitingCall (acquireLock c i s) d = waitingCall s d := rfl

/-! ### deliver -/

@[simp] theorem deliver_params (c : Nat) (r : Result) (s : State) :
    (deliver c r s).params = s.params := rfl
@[simp] theorem deliver_phase (c : Nat) (r : Result) (s : State) :
    (deliver c r s).phase = s.phase := rfl
@[simp] theorem deliver_estate (c : Nat) (r : Result) (s : State) :
    (deliver c r s).estate = s.estate := rfl
@[simp] theorem deliver_errcnt (c : Nat) (r : Result) (s : State) :
    (deliver c r s).errcnt = s.errcnt := rfl
@[simp] theorem deliver_trace (c : Nat) (r : Result) (s : State) :
    (deliver c r s).trace = s.trace := rfl
@[simp] theorem deliver_callers (c : Nat) (r : Result) (s : State) :
    (deliver c r s).callers = s.callers.modify c (fun k => { k with pending := none, results := k.results ++ [r] }) := rfl
@[simp] theorem deliver_lock (c : Nat) (r : Result) (s : State) :
    (deliver c r s).lock = s.lock := rfl
@[simp] theorem deliver_chan (c : Nat) (r : Result) (s : State) :
    (deliver c r s).chan = s.chan := rfl
@[simp] theorem deliver_fault (c : Nat) (r : Result) (s : State) :
    (deliver c r s).fault = s.fault := rfl
@[simp] theorem deliver_refused (c : Nat) (r : Result) (s : State) :
    (deliver c r s).refused = s.refused := rfl
@[simp] theorem deliver_reasons (c : Nat) (r : Result) (s : State) :
    (deliver c r s).reasons = s.reasons := rfl
@[simp] theorem deliver_cmd (c : Nat) (r : Result) (s : State) :
    (deliver c r s).cmd = s.cmd := rfl
@[simp] theorem deliver_resp (c : Nat) (r : Result) (s : State) :
    (deliver c r s).resp = s.resp := rfl
@[simp] theorem deliver_rn (c : Nat) (r : Result) (s : State) :
    (deliver c r s).rn = s.rn := rfl
@[simp] theorem deliver_req (c : Nat) (r : Result) (s : State) :
    (deliver c r s).req = s.req := rfl
@[simp] theorem deliver_bustrace (c : Nat) (r : Result) (s : State) :
    (deliver c r s).bustrace = s.bustrace := rfl
@[simp] theorem deliver_diagtrace (c : Nat) (r : Result) (s : State) :
    (deliver c r s).diagtrace = s.diagtrace := rfl
@[simp] theorem deliver_mem (c : Nat) (r : Result) (s : State) :
    (deliver c r s).mem = s.mem := rfl
@[simp] theorem deliver_todo (c : Nat) (r : Result) (s : State) :
    (deliver c r s).todo = s.todo := rfl
@[simp] theorem deliver_verdict (c : Nat) (r : Result) (s : State) :
    (deliver c r s).verdict = s.verdict := rfl
@[simp] theorem deliver_caller (c : Nat) (r : Result) (s : State) :
    (deliver c r s).caller = s.caller := rfl
@[simp] theorem deliver_moves (c : Nat) (r : Result) (s : State) :
    (deliver c r s).moves = s.moves := rfl
@[simp] theorem deliver_answers (c : Nat) (r : Result) (s : State) :
    (deliver c r s).answers = s.answers := rfl
@[simp] theorem deliver_draws (c : Nat) (r : Result) (s : State) :
    (deliver c r s).draws = s.draws := rfl
@[simp] theorem deliver_answerAt (c : Nat) (r : Result) (s : State) (j : Nat) :
    (deliver c r s).answerAt j = s.answerAt j := rfl
@[simp] theorem deliver_drawIndex (c : Nat) (r : Result) (s : State) (j : Nat) :
    (deliver c r s).drawIndex j = s.drawIndex j := rfl
@[simp] theorem deliver_bytesAt (c : Nat) (r : Result) (s : State) (j n : Nat) :
    (deliver c r s).bytesAt j n = s.bytesAt j n := rfl

/-! ### release -/

@[simp] theorem release_params (c : Nat) (r : Result) (s : State) :
    (release c r s).params = s.params := rfl
@[simp] theorem release_phase (c : Nat) (r : Result) (s : State) :
    (release c r s).phase = .idle := rfl
@[simp] theorem release_estate (c : Nat) (r : Result) (s : State) :
    (release c r s).estate = s.estate := rfl
@[simp] theorem release_errcnt (c : Nat) (r : Result) (s : State) :
    (release c r s).errcnt = s.errcnt := rfl
@[simp] theorem release_trace (c : Nat) (r : Result) (s : State) :
    (release c r s).trace = s.trace := rfl
@[simp] theorem release_callers (c : Nat) (r : Result) (s : State) :
    (release c r s).callers = s.callers.modify c (fun k => { k with pending := none, results := k.results ++ [r] }) := rfl
@[simp] theorem release_lock (c : Nat) (r : Result) (s : State) :
    (release c r s).lock = .free := rfl
@[simp] theorem release_chan (c : Nat) (r : Result) (s : State) :
    (release c r s).chan = s.chan := rfl
@[simp] theorem release_fault (c : Nat) (r : Result) (s : State) :
    (release c r s).fault = s.fault := rfl
@[simp] theorem release_refused (c : Nat) (r : Result) (s : State) :
    (release c r s).refused = s.refused := rfl
@[simp] theorem release_reasons (c : Nat) (r : Result) (s : State) :
    (release c r s).reasons = s.reasons := rfl
@[simp] theorem release_cmd (c : Nat) (r : Result) (s : State) :
    (release c r s).cmd = s.cmd := rfl
@[simp] theorem release_resp (c : Nat) (r : Result) (s : State) :
    (release c r s).resp = s.resp := rfl
@[simp] theorem release_rn (c : Nat) (r : Result) (s : State) :
    (release c r s).rn = s.rn := rfl
@[simp] theorem release_req (c : Nat) (r : Result) (s : State) :
    (release c r s).req = none := rfl
@[simp] theorem release_bustrace (c : Nat) (r : Result) (s : State) :
    (release c r s).bustrace = s.bustrace := rfl
@[simp] theorem release_diagtrace (c : Nat) (r : Result) (s : State) :
    (release c r s).diagtrace = s.diagtrace := rfl
@[simp] theorem release_mem (c : Nat) (r : Result) (s : State) :
    (release c r s).mem = s.mem := rfl
@[simp] theorem release_todo (c : Nat) (r : Result) (s : State) :
    (release c r s).todo = [] := rfl
@[simp] theorem release_verdict (c : Nat) (r : Result) (s : State) :
    (release c r s).verdict = s.verdict := rfl
@[simp] theorem release_caller (c : Nat) (r : Result) (s : State) :
    (release c r s).caller = s.caller := rfl
@[simp] theorem release_moves (c : Nat) (r : Result) (s : State) :
    (release c r s).moves = s.moves := rfl
@[simp] theorem release_answers (c : Nat) (r : Result) (s : State) :
    (release c r s).answers = s.answers := rfl
@[simp] theorem release_draws (c : Nat) (r : Result) (s : State) :
    (release c r s).draws = s.draws := rfl
@[simp] theorem release_answerAt (c : Nat) (r : Result) (s : State) (j : Nat) :
    (release c r s).answerAt j = s.answerAt j := rfl
@[simp] theorem release_drawIndex (c : Nat) (r : Result) (s : State) (j : Nat) :
    (release c r s).drawIndex j = s.drawIndex j := rfl
@[simp] theorem release_bytesAt (c : Nat) (r : Result) (s : State) (j n : Nat) :
    (release c r s).bytesAt j n = s.bytesAt j n := rfl

/-! ### raiseFault -/

@[simp] theorem raiseFault_params (c : Nat) (e : FatalReason) (s : State) :
    (raiseFault c e s).params = s.params := rfl
@[simp] theorem raiseFault_phase (c : Nat) (e : FatalReason) (s : State) :
    (raiseFault c e s).phase = .idle := rfl
@[simp] theorem raiseFault_estate (c : Nat) (e : FatalReason) (s : State) :
    (raiseFault c e s).estate = .faulted := rfl
@[simp] theorem raiseFault_errcnt (c : Nat) (e : FatalReason) (s : State) :
    (raiseFault c e s).errcnt = s.errcnt := rfl
@[simp] theorem raiseFault_trace (c : Nat) (e : FatalReason) (s : State) :
    (raiseFault c e s).trace = s.trace := rfl
@[simp] theorem raiseFault_callers (c : Nat) (e : FatalReason) (s : State) :
    (raiseFault c e s).callers = s.callers.modify c (fun k => { k with pending := none, results := k.results ++ [fatalResult e] }) := rfl
@[simp] theorem raiseFault_lock (c : Nat) (e : FatalReason) (s : State) :
    (raiseFault c e s).lock = .free := rfl
@[simp] theorem raiseFault_chan (c : Nat) (e : FatalReason) (s : State) :
    (raiseFault c e s).chan = s.chan := rfl
@[simp] theorem raiseFault_fault (c : Nat) (e : FatalReason) (s : State) :
    (raiseFault c e s).fault = some e := rfl
@[simp] theorem raiseFault_refused (c : Nat) (e : FatalReason) (s : State) :
    (raiseFault c e s).refused = s.refused := rfl
@[simp] theorem raiseFault_reasons (c : Nat) (e : FatalReason) (s : State) :
    (raiseFault c e s).reasons = s.reasons := rfl
@[simp] theorem raiseFault_cmd (c : Nat) (e : FatalReason) (s : State) :
    (raiseFault c e s).cmd = s.cmd := rfl
@[simp] theorem raiseFault_resp (c : Nat) (e : FatalReason) (s : State) :
    (raiseFault c e s).resp = s.resp := rfl
@[simp] theorem raiseFault_rn (c : Nat) (e : FatalReason) (s : State) :
    (raiseFault c e s).rn = s.rn := rfl
@[simp] theorem raiseFault_req (c : Nat) (e : FatalReason) (s : State) :
    (raiseFault c e s).req = none := rfl
@[simp] theorem raiseFault_bustrace (c : Nat) (e : FatalReason) (s : State) :
    (raiseFault c e s).bustrace = s.bustrace := rfl
@[simp] theorem raiseFault_diagtrace (c : Nat) (e : FatalReason) (s : State) :
    (raiseFault c e s).diagtrace = s.diagtrace := rfl
@[simp] theorem raiseFault_mem (c : Nat) (e : FatalReason) (s : State) :
    (raiseFault c e s).mem = s.mem := rfl
@[simp] theorem raiseFault_todo (c : Nat) (e : FatalReason) (s : State) :
    (raiseFault c e s).todo = [] := rfl
@[simp] theorem raiseFault_verdict (c : Nat) (e : FatalReason) (s : State) :
    (raiseFault c e s).verdict = s.verdict := rfl
@[simp] theorem raiseFault_caller (c : Nat) (e : FatalReason) (s : State) :
    (raiseFault c e s).caller = s.caller := rfl
@[simp] theorem raiseFault_moves (c : Nat) (e : FatalReason) (s : State) :
    (raiseFault c e s).moves = s.moves := rfl
@[simp] theorem raiseFault_answers (c : Nat) (e : FatalReason) (s : State) :
    (raiseFault c e s).answers = s.answers := rfl
@[simp] theorem raiseFault_draws (c : Nat) (e : FatalReason) (s : State) :
    (raiseFault c e s).draws = s.draws := rfl
@[simp] theorem raiseFault_answerAt (c : Nat) (e : FatalReason) (s : State) (j : Nat) :
    (raiseFault c e s).answerAt j = s.answerAt j := rfl
@[simp] theorem raiseFault_drawIndex (c : Nat) (e : FatalReason) (s : State) (j : Nat) :
    (raiseFault c e s).drawIndex j = s.drawIndex j := rfl
@[simp] theorem raiseFault_bytesAt (c : Nat) (e : FatalReason) (s : State) (j n : Nat) :
    (raiseFault c e s).bytesAt j n = s.bytesAt j n := rfl

/-! ### refuse -/

@[simp] theorem refuse_params (c : Nat) (r : Reason) (s : State) :
    (refuse c r s).params = s.params := rfl
@[simp] theorem refuse_phase (c : Nat) (r : Reason) (s : State) :
    (refuse c r s).phase = s.phase := rfl
@[simp] theorem refuse_estate (c : Nat) (r : Reason) (s : State) :
    (refuse c r s).estate = s.estate := rfl
@[simp] theorem refuse_errcnt (c : Nat) (r : Reason) (s : State) :
    (refuse c r s).errcnt = s.errcnt := rfl
@[simp] theorem refuse_trace (c : Nat) (r : Reason) (s : State) :
    (refuse c r s).trace = s.trace := rfl
@[simp] theorem refuse_callers (c : Nat) (r : Reason) (s : State) :
    (refuse c r s).callers = s.callers.modify c (fun k => { k with denied := true }) := rfl
@[simp] theorem refuse_lock (c : Nat) (r : Reason) (s : State) :
    (refuse c r s).lock = s.lock := rfl
@[simp] theorem refuse_chan (c : Nat) (r : Reason) (s : State) :
    (refuse c r s).chan = s.chan := rfl
@[simp] theorem refuse_fault (c : Nat) (r : Reason) (s : State) :
    (refuse c r s).fault = s.fault := rfl
@[simp] theorem refuse_refused (c : Nat) (r : Reason) (s : State) :
    (refuse c r s).refused = true := rfl
@[simp] theorem refuse_reasons (c : Nat) (r : Reason) (s : State) :
    (refuse c r s).reasons = s.reasons ++ [r] := rfl
@[simp] theorem refuse_cmd (c : Nat) (r : Reason) (s : State) :
    (refuse c r s).cmd = s.cmd := rfl
@[simp] theorem refuse_resp (c : Nat) (r : Reason) (s : State) :
    (refuse c r s).resp = s.resp := rfl
@[simp] theorem refuse_rn (c : Nat) (r : Reason) (s : State) :
    (refuse c r s).rn = s.rn := rfl
@[simp] theorem refuse_req (c : Nat) (r : Reason) (s : State) :
    (refuse c r s).req = s.req := rfl
@[simp] theorem refuse_bustrace (c : Nat) (r : Reason) (s : State) :
    (refuse c r s).bustrace = s.bustrace := rfl
@[simp] theorem refuse_diagtrace (c : Nat) (r : Reason) (s : State) :
    (refuse c r s).diagtrace = s.diagtrace := rfl
@[simp] theorem refuse_mem (c : Nat) (r : Reason) (s : State) :
    (refuse c r s).mem = s.mem := rfl
@[simp] theorem refuse_todo (c : Nat) (r : Reason) (s : State) :
    (refuse c r s).todo = s.todo := rfl
@[simp] theorem refuse_verdict (c : Nat) (r : Reason) (s : State) :
    (refuse c r s).verdict = s.verdict := rfl
@[simp] theorem refuse_caller (c : Nat) (r : Reason) (s : State) :
    (refuse c r s).caller = s.caller := rfl
@[simp] theorem refuse_moves (c : Nat) (r : Reason) (s : State) :
    (refuse c r s).moves = s.moves := rfl
@[simp] theorem refuse_answers (c : Nat) (r : Reason) (s : State) :
    (refuse c r s).answers = s.answers := rfl
@[simp] theorem refuse_draws (c : Nat) (r : Reason) (s : State) :
    (refuse c r s).draws = s.draws := rfl
@[simp] theorem refuse_answerAt (c : Nat) (r : Reason) (s : State) (j : Nat) :
    (refuse c r s).answerAt j = s.answerAt j := rfl
@[simp] theorem refuse_drawIndex (c : Nat) (r : Reason) (s : State) (j : Nat) :
    (refuse c r s).drawIndex j = s.drawIndex j := rfl
@[simp] theorem refuse_bytesAt (c : Nat) (r : Reason) (s : State) (j n : Nat) :
    (refuse c r s).bytesAt j n = s.bytesAt j n := rfl

/-! ### busConfigure -/

@[simp] theorem busConfigure_params (s : State) :
    (busConfigure s).2.params = s.params := rfl
@[simp] theorem busConfigure_phase (s : State) :
    (busConfigure s).2.phase = s.phase := rfl
@[simp] theorem busConfigure_estate (s : State) :
    (busConfigure s).2.estate = s.estate := rfl
@[simp] theorem busConfigure_errcnt (s : State) :
    (busConfigure s).2.errcnt = s.errcnt := rfl
@[simp] theorem busConfigure_trace (s : State) :
    (busConfigure s).2.trace = s.trace := rfl
@[simp] theorem busConfigure_callers (s : State) :
    (busConfigure s).2.callers = s.callers := rfl
@[simp] theorem busConfigure_lock (s : State) :
    (busConfigure s).2.lock = s.lock := rfl
@[simp] theorem busConfigure_chan (s : State) :
    (busConfigure s).2.chan = if (s.answerAt 0).ok then .configured else s.chan := rfl
@[simp] theorem busConfigure_fault (s : State) :
    (busConfigure s).2.fault = s.fault := rfl
@[simp] theorem busConfigure_refused (s : State) :
    (busConfigure s).2.refused = s.refused := rfl
@[simp] theorem busConfigure_reasons (s : State) :
    (busConfigure s).2.reasons = s.reasons := rfl
@[simp] theorem busConfigure_cmd (s : State) :
    (busConfigure s).2.cmd = s.cmd := rfl
@[simp] theorem busConfigure_resp (s : State) :
    (busConfigure s).2.resp = s.resp := rfl
@[simp] theorem busConfigure_rn (s : State) :
    (busConfigure s).2.rn = s.rn := rfl
@[simp] theorem busConfigure_req (s : State) :
    (busConfigure s).2.req = s.req := rfl
@[simp] theorem busConfigure_bustrace (s : State) :
    (busConfigure s).2.bustrace = s.bustrace ++ [.configure s.params.busConfig (s.answerAt 0).ok] := rfl
@[simp] theorem busConfigure_diagtrace (s : State) :
    (busConfigure s).2.diagtrace = s.diagtrace := rfl
@[simp] theorem busConfigure_mem (s : State) :
    (busConfigure s).2.mem = s.mem := rfl
@[simp] theorem busConfigure_todo (s : State) :
    (busConfigure s).2.todo = s.todo := rfl
@[simp] theorem busConfigure_verdict (s : State) :
    (busConfigure s).2.verdict = s.verdict := rfl
@[simp] theorem busConfigure_caller (s : State) :
    (busConfigure s).2.caller = s.caller := rfl
@[simp] theorem busConfigure_moves (s : State) :
    (busConfigure s).2.moves = s.moves := rfl
@[simp] theorem busConfigure_answers (s : State) :
    (busConfigure s).2.answers = s.answers.drop 1 := rfl
@[simp] theorem busConfigure_draws (s : State) :
    (busConfigure s).2.draws = s.drawIndex 1 := rfl
@[simp] theorem busConfigure_viewOf (s : State) (d : Nat) :
    viewOf (busConfigure s).2 d = viewOf s d := rfl
@[simp] theorem busConfigure_resultsOf (s : State) (d : Nat) :
    resultsOf (busConfigure s).2 d = resultsOf s d := rfl
@[simp] theorem busConfigure_pendingOf (s : State) (d : Nat) :
    pendingOf (busConfigure s).2 d = pendingOf s d := rfl
@[simp] theorem busConfigure_waitingCall (s : State) (d : Nat) :
    waitingCall (busConfigure s).2 d = waitingCall s d := rfl

@[simp] theorem busConfigure_answer (s : State) : (busConfigure s).1 = (s.answerAt 0).ok := rfl

/-! ### busWriteBytes -/

@[simp] theorem busWriteBytes_params (s : State) :
    (busWriteBytes s).2.params = s.params := rfl
@[simp] theorem busWriteBytes_phase (s : State) :
    (busWriteBytes s).2.phase = s.phase := rfl
@[simp] theorem busWriteBytes_estate (s : State) :
    (busWriteBytes s).2.estate = s.estate := rfl
@[simp] theorem busWriteBytes_errcnt (s : State) :
    (busWriteBytes s).2.errcnt = s.errcnt := rfl
@[simp] theorem busWriteBytes_trace (s : State) :
    (busWriteBytes s).2.trace = s.trace := rfl
@[simp] theorem busWriteBytes_callers (s : State) :
    (busWriteBytes s).2.callers = s.callers := rfl
@[simp] theorem busWriteBytes_lock (s : State) :
    (busWriteBytes s).2.lock = s.lock := rfl
@[simp] theorem busWriteBytes_chan (s : State) :
    (busWriteBytes s).2.chan = s.chan := rfl
@[simp] theorem busWriteBytes_fault (s : State) :
    (busWriteBytes s).2.fault = s.fault := rfl
@[simp] theorem busWriteBytes_refused (s : State) :
    (busWriteBytes s).2.refused = s.refused := rfl
@[simp] theorem busWriteBytes_reasons (s : State) :
    (busWriteBytes s).2.reasons = s.reasons := rfl
@[simp] theorem busWriteBytes_cmd (s : State) :
    (busWriteBytes s).2.cmd = s.cmd := rfl
@[simp] theorem busWriteBytes_resp (s : State) :
    (busWriteBytes s).2.resp = s.resp := rfl
@[simp] theorem busWriteBytes_rn (s : State) :
    (busWriteBytes s).2.rn = s.rn := rfl
@[simp] theorem busWriteBytes_req (s : State) :
    (busWriteBytes s).2.req = s.req := rfl
@[simp] theorem busWriteBytes_bustrace (s : State) :
    (busWriteBytes s).2.bustrace = s.bustrace ++ [.writeBytes s.cmd.bytes (s.answerAt 0).n] := rfl
@[simp] theorem busWriteBytes_diagtrace (s : State) :
    (busWriteBytes s).2.diagtrace = s.diagtrace := rfl
@[simp] theorem busWriteBytes_mem (s : State) :
    (busWriteBytes s).2.mem = s.mem := rfl
@[simp] theorem busWriteBytes_todo (s : State) :
    (busWriteBytes s).2.todo = s.todo := rfl
@[simp] theorem busWriteBytes_verdict (s : State) :
    (busWriteBytes s).2.verdict = s.verdict := rfl
@[simp] theorem busWriteBytes_caller (s : State) :
    (busWriteBytes s).2.caller = s.caller := rfl
@[simp] theorem busWriteBytes_moves (s : State) :
    (busWriteBytes s).2.moves = s.moves := rfl
@[simp] theorem busWriteBytes_answers (s : State) :
    (busWriteBytes s).2.answers = s.answers.drop 1 := rfl
@[simp] theorem busWriteBytes_draws (s : State) :
    (busWriteBytes s).2.draws = s.drawIndex 1 := rfl
@[simp] theorem busWriteBytes_viewOf (s : State) (d : Nat) :
    viewOf (busWriteBytes s).2 d = viewOf s d := rfl
@[simp] theorem busWriteBytes_resultsOf (s : State) (d : Nat) :
    resultsOf (busWriteBytes s).2 d = resultsOf s d := rfl
@[simp] theorem busWriteBytes_pendingOf (s : State) (d : Nat) :
    pendingOf (busWriteBytes s).2 d = pendingOf s d := rfl
@[simp] theorem busWriteBytes_waitingCall (s : State) (d : Nat) :
    waitingCall (busWriteBytes s).2 d = waitingCall s d := rfl

@[simp] theorem busWriteBytes_answer (s : State) : (busWriteBytes s).1 = (s.answerAt 0).n := rfl

/-! ### busDelay -/

@[simp] theorem busDelay_params (us : Nat) (s : State) :
    (busDelay us s).params = s.params := rfl
@[simp] theorem busDelay_phase (us : Nat) (s : State) :
    (busDelay us s).phase = s.phase := rfl
@[simp] theorem busDelay_estate (us : Nat) (s : State) :
    (busDelay us s).estate = s.estate := rfl
@[simp] theorem busDelay_errcnt (us : Nat) (s : State) :
    (busDelay us s).errcnt = s.errcnt := rfl
@[simp] theorem busDelay_trace (us : Nat) (s : State) :
    (busDelay us s).trace = s.trace := rfl
@[simp] theorem busDelay_callers (us : Nat) (s : State) :
    (busDelay us s).callers = s.callers := rfl
@[simp] theorem busDelay_lock (us : Nat) (s : State) :
    (busDelay us s).lock = s.lock := rfl
@[simp] theorem busDelay_chan (us : Nat) (s : State) :
    (busDelay us s).chan = s.chan := rfl
@[simp] theorem busDelay_fault (us : Nat) (s : State) :
    (busDelay us s).fault = s.fault := rfl
@[simp] theorem busDelay_refused (us : Nat) (s : State) :
    (busDelay us s).refused = s.refused := rfl
@[simp] theorem busDelay_reasons (us : Nat) (s : State) :
    (busDelay us s).reasons = s.reasons := rfl
@[simp] theorem busDelay_cmd (us : Nat) (s : State) :
    (busDelay us s).cmd = s.cmd := rfl
@[simp] theorem busDelay_resp (us : Nat) (s : State) :
    (busDelay us s).resp = s.resp := rfl
@[simp] theorem busDelay_rn (us : Nat) (s : State) :
    (busDelay us s).rn = s.rn := rfl
@[simp] theorem busDelay_req (us : Nat) (s : State) :
    (busDelay us s).req = s.req := rfl
@[simp] theorem busDelay_bustrace (us : Nat) (s : State) :
    (busDelay us s).bustrace = s.bustrace ++ [.delay us] := rfl
@[simp] theorem busDelay_diagtrace (us : Nat) (s : State) :
    (busDelay us s).diagtrace = s.diagtrace := rfl
@[simp] theorem busDelay_mem (us : Nat) (s : State) :
    (busDelay us s).mem = s.mem := rfl
@[simp] theorem busDelay_todo (us : Nat) (s : State) :
    (busDelay us s).todo = s.todo := rfl
@[simp] theorem busDelay_verdict (us : Nat) (s : State) :
    (busDelay us s).verdict = s.verdict := rfl
@[simp] theorem busDelay_caller (us : Nat) (s : State) :
    (busDelay us s).caller = s.caller := rfl
@[simp] theorem busDelay_moves (us : Nat) (s : State) :
    (busDelay us s).moves = s.moves := rfl
@[simp] theorem busDelay_answers (us : Nat) (s : State) :
    (busDelay us s).answers = s.answers := rfl
@[simp] theorem busDelay_draws (us : Nat) (s : State) :
    (busDelay us s).draws = s.draws := rfl
@[simp] theorem busDelay_answerAt (us : Nat) (s : State) (j : Nat) :
    (busDelay us s).answerAt j = s.answerAt j := rfl
@[simp] theorem busDelay_drawIndex (us : Nat) (s : State) (j : Nat) :
    (busDelay us s).drawIndex j = s.drawIndex j := rfl
@[simp] theorem busDelay_bytesAt (us : Nat) (s : State) (j n : Nat) :
    (busDelay us s).bytesAt j n = s.bytesAt j n := rfl
@[simp] theorem busDelay_viewOf (us : Nat) (s : State) (d : Nat) :
    viewOf (busDelay us s) d = viewOf s d := rfl
@[simp] theorem busDelay_resultsOf (us : Nat) (s : State) (d : Nat) :
    resultsOf (busDelay us s) d = resultsOf s d := rfl
@[simp] theorem busDelay_pendingOf (us : Nat) (s : State) (d : Nat) :
    pendingOf (busDelay us s) d = pendingOf s d := rfl
@[simp] theorem busDelay_waitingCall (us : Nat) (s : State) (d : Nat) :
    waitingCall (busDelay us s) d = waitingCall s d := rfl

/-! ### busReadBytes -/

@[simp] theorem busReadBytes_params (k : Nat) (s : State) :
    (busReadBytes k s).2.params = s.params := rfl
@[simp] theorem busReadBytes_phase (k : Nat) (s : State) :
    (busReadBytes k s).2.phase = s.phase := rfl
@[simp] theorem busReadBytes_estate (k : Nat) (s : State) :
    (busReadBytes k s).2.estate = s.estate := rfl
@[simp] theorem busReadBytes_errcnt (k : Nat) (s : State) :
    (busReadBytes k s).2.errcnt = s.errcnt := rfl
@[simp] theorem busReadBytes_trace (k : Nat) (s : State) :
    (busReadBytes k s).2.trace = s.trace := rfl
@[simp] theorem busReadBytes_callers (k : Nat) (s : State) :
    (busReadBytes k s).2.callers = s.callers := rfl
@[simp] theorem busReadBytes_lock (k : Nat) (s : State) :
    (busReadBytes k s).2.lock = s.lock := rfl
@[simp] theorem busReadBytes_chan (k : Nat) (s : State) :
    (busReadBytes k s).2.chan = s.chan := rfl
@[simp] theorem busReadBytes_fault (k : Nat) (s : State) :
    (busReadBytes k s).2.fault = s.fault := rfl
@[simp] theorem busReadBytes_refused (k : Nat) (s : State) :
    (busReadBytes k s).2.refused = s.refused := rfl
@[simp] theorem busReadBytes_reasons (k : Nat) (s : State) :
    (busReadBytes k s).2.reasons = s.reasons := rfl
@[simp] theorem busReadBytes_cmd (k : Nat) (s : State) :
    (busReadBytes k s).2.cmd = s.cmd := rfl
@[simp] theorem busReadBytes_resp (k : Nat) (s : State) :
    (busReadBytes k s).2.resp = s.bytesAt 0 k ++ s.resp.drop k := rfl
@[simp] theorem busReadBytes_rn (k : Nat) (s : State) :
    (busReadBytes k s).2.rn = (s.answerAt 0).n := rfl
@[simp] theorem busReadBytes_req (k : Nat) (s : State) :
    (busReadBytes k s).2.req = s.req := rfl
@[simp] theorem busReadBytes_bustrace (k : Nat) (s : State) :
    (busReadBytes k s).2.bustrace = s.bustrace ++ [.readBytes k (s.answerAt 0).n (s.bytesAt 0 k)] := rfl
@[simp] theorem busReadBytes_diagtrace (k : Nat) (s : State) :
    (busReadBytes k s).2.diagtrace = s.diagtrace := rfl
@[simp] theorem busReadBytes_mem (k : Nat) (s : State) :
    (busReadBytes k s).2.mem = s.mem := rfl
@[simp] theorem busReadBytes_todo (k : Nat) (s : State) :
    (busReadBytes k s).2.todo = s.todo := rfl
@[simp] theorem busReadBytes_verdict (k : Nat) (s : State) :
    (busReadBytes k s).2.verdict = s.verdict := rfl
@[simp] theorem busReadBytes_caller (k : Nat) (s : State) :
    (busReadBytes k s).2.caller = s.caller := rfl
@[simp] theorem busReadBytes_moves (k : Nat) (s : State) :
    (busReadBytes k s).2.moves = s.moves := rfl
@[simp] theorem busReadBytes_answers (k : Nat) (s : State) :
    (busReadBytes k s).2.answers = s.answers.drop 1 := rfl
@[simp] theorem busReadBytes_draws (k : Nat) (s : State) :
    (busReadBytes k s).2.draws = s.drawIndex 1 := rfl
@[simp] theorem busReadBytes_viewOf (k : Nat) (s : State) (d : Nat) :
    viewOf (busReadBytes k s).2 d = viewOf s d := rfl
@[simp] theorem busReadBytes_resultsOf (k : Nat) (s : State) (d : Nat) :
    resultsOf (busReadBytes k s).2 d = resultsOf s d := rfl
@[simp] theorem busReadBytes_pendingOf (k : Nat) (s : State) (d : Nat) :
    pendingOf (busReadBytes k s).2 d = pendingOf s d := rfl
@[simp] theorem busReadBytes_waitingCall (k : Nat) (s : State) (d : Nat) :
    waitingCall (busReadBytes k s).2 d = waitingCall s d := rfl

@[simp] theorem busReadBytes_answer (k : Nat) (s : State) : (busReadBytes k s).1 = (s.answerAt 0).n := rfl

/-! ### busClose -/

@[simp] theorem busClose_params (s : State) :
    (busClose s).params = s.params := rfl
@[simp] theorem busClose_phase (s : State) :
    (busClose s).phase = s.phase := rfl
@[simp] theorem busClose_estate (s : State) :
    (busClose s).estate = s.estate := rfl
@[simp] theorem busClose_errcnt (s : State) :
    (busClose s).errcnt = s.errcnt := rfl
@[simp] theorem busClose_trace (s : State) :
    (busClose s).trace = s.trace := rfl
@[simp] theorem busClose_callers (s : State) :
    (busClose s).callers = s.callers := rfl
@[simp] theorem busClose_lock (s : State) :
    (busClose s).lock = s.lock := rfl
@[simp] theorem busClose_chan (s : State) :
    (busClose s).chan = .closed := rfl
@[simp] theorem busClose_fault (s : State) :
    (busClose s).fault = s.fault := rfl
@[simp] theorem busClose_refused (s : State) :
    (busClose s).refused = s.refused := rfl
@[simp] theorem busClose_reasons (s : State) :
    (busClose s).reasons = s.reasons := rfl
@[simp] theorem busClose_cmd (s : State) :
    (busClose s).cmd = s.cmd := rfl
@[simp] theorem busClose_resp (s : State) :
    (busClose s).resp = s.resp := rfl
@[simp] theorem busClose_rn (s : State) :
    (busClose s).rn = s.rn := rfl
@[simp] theorem busClose_req (s : State) :
    (busClose s).req = s.req := rfl
@[simp] theorem busClose_bustrace (s : State) :
    (busClose s).bustrace = s.bustrace ++ [.closeBus] := rfl
@[simp] theorem busClose_diagtrace (s : State) :
    (busClose s).diagtrace = s.diagtrace := rfl
@[simp] theorem busClose_mem (s : State) :
    (busClose s).mem = s.mem := rfl
@[simp] theorem busClose_todo (s : State) :
    (busClose s).todo = s.todo := rfl
@[simp] theorem busClose_verdict (s : State) :
    (busClose s).verdict = s.verdict := rfl
@[simp] theorem busClose_caller (s : State) :
    (busClose s).caller = s.caller := rfl
@[simp] theorem busClose_moves (s : State) :
    (busClose s).moves = s.moves := rfl
@[simp] theorem busClose_answers (s : State) :
    (busClose s).answers = s.answers := rfl
@[simp] theorem busClose_draws (s : State) :
    (busClose s).draws = s.draws := rfl
@[simp] theorem busClose_answerAt (s : State) (j : Nat) :
    (busClose s).answerAt j = s.answerAt j := rfl
@[simp] theorem busClose_drawIndex (s : State) (j : Nat) :
    (busClose s).drawIndex j = s.drawIndex j := rfl
@[simp] theorem busClose_bytesAt (s : State) (j n : Nat) :
    (busClose s).bytesAt j n = s.bytesAt j n := rfl
@[simp] theorem busClose_viewOf (s : State) (d : Nat) :
    viewOf (busClose s) d = viewOf s d := rfl
@[simp] theorem busClose_resultsOf (s : State) (d : Nat) :
    resultsOf (busClose s) d = resultsOf s d := rfl
@[simp] theorem busClose_pendingOf (s : State) (d : Nat) :
    pendingOf (busClose s) d = pendingOf s d := rfl
@[simp] theorem busClose_waitingCall (s : State) (d : Nat) :
    waitingCall (busClose s) d = waitingCall s d := rfl

/-! ### busOpen -/

@[simp] theorem busOpen_params (s : State) :
    (busOpen s).2.params = s.params := rfl
@[simp] theorem busOpen_phase (s : State) :
    (busOpen s).2.phase = s.phase := rfl
@[simp] theorem busOpen_estate (s : State) :
    (busOpen s).2.estate = s.estate := rfl
@[simp] theorem busOpen_errcnt (s : State) :
    (busOpen s).2.errcnt = s.errcnt := rfl
@[simp] theorem busOpen_trace (s : State) :
    (busOpen s).2.trace = s.trace := rfl
@[simp] theorem busOpen_callers (s : State) :
    (busOpen s).2.callers = s.callers := rfl
@[simp] theorem busOpen_lock (s : State) :
    (busOpen s).2.lock = s.lock := rfl
@[simp] theorem busOpen_chan (s : State) :
    (busOpen s).2.chan = if (s.answerAt 0).ok then (if s.params.reconfigOnReinit then .opened else .configured) else s.chan := rfl
@[simp] theorem busOpen_fault (s : State) :
    (busOpen s).2.fault = s.fault := rfl
@[simp] theorem busOpen_refused (s : State) :
    (busOpen s).2.refused = s.refused := rfl
@[simp] theorem busOpen_reasons (s : State) :
    (busOpen s).2.reasons = s.reasons := rfl
@[simp] theorem busOpen_cmd (s : State) :
    (busOpen s).2.cmd = s.cmd := rfl
@[simp] theorem busOpen_resp (s : State) :
    (busOpen s).2.resp = s.resp := rfl
@[simp] theorem busOpen_rn (s : State) :
    (busOpen s).2.rn = s.rn := rfl
@[simp] theorem busOpen_req (s : State) :
    (busOpen s).2.req = s.req := rfl
@[simp] theorem busOpen_bustrace (s : State) :
    (busOpen s).2.bustrace = s.bustrace ++ [.openBus (s.answerAt 0).ok] := rfl
@[simp] theorem busOpen_diagtrace (s : State) :
    (busOpen s).2.diagtrace = s.diagtrace := rfl
@[simp] theorem busOpen_mem (s : State) :
    (busOpen s).2.mem = s.mem := rfl
@[simp] theorem busOpen_todo (s : State) :
    (busOpen s).2.todo = s.todo := rfl
@[simp] theorem busOpen_verdict (s : State) :
    (busOpen s).2.verdict = s.verdict := rfl
@[simp] theorem busOpen_caller (s : State) :
    (busOpen s).2.caller = s.caller := rfl
@[simp] theorem busOpen_moves (s : State) :
    (busOpen s).2.moves = s.moves := rfl
@[simp] theorem busOpen_answers (s : State) :
    (busOpen s).2.answers = s.answers.drop 1 := rfl
@[simp] theorem busOpen_draws (s : State) :
    (busOpen s).2.draws = s.drawIndex 1 := rfl
@[simp] theorem busOpen_viewOf (s : State) (d : Nat) :
    viewOf (busOpen s).2 d = viewOf s d := rfl
@[simp] theorem busOpen_resultsOf (s : State) (d : Nat) :
    resultsOf (busOpen s).2 d = resultsOf s d := rfl
@[simp] theorem busOpen_pendingOf (s : State) (d : Nat) :
    pendingOf (busOpen s).2 d = pendingOf s d := rfl
@[simp] theorem busOpen_waitingCall (s : State) (d : Nat) :
    waitingCall (busOpen s).2 d = waitingCall s d := rfl

@[simp] theorem busOpen_answer (s : State) : (busOpen s).1 = (s.answerAt 0).ok := rfl

/-! ### countError -/

@[simp] theorem countError_params (s : State) :
    (countError s).params = s.params := rfl
@[simp] theorem countError_phase (s : State) :
    (countError s).phase = s.phase := rfl
@[simp] theorem countError_estate (s : State) :
    (countError s).estate = s.estate := rfl
@[simp] theorem countError_errcnt (s : State) :
    (countError s).errcnt = (s.errcnt + 1) % 2 ^ s.params.errcntW := rfl
@[simp] theorem countError_trace (s : State) :
    (countError s).trace = s.trace := rfl
@[simp] theorem countError_callers (s : State) :
    (countError s).callers = s.callers := rfl
@[simp] theorem countError_lock (s : State) :
    (countError s).lock = s.lock := rfl
@[simp] theorem countError_chan (s : State) :
    (countError s).chan = s.chan := rfl
@[simp] theorem countError_fault (s : State) :
    (countError s).fault = s.fault := rfl
@[simp] theorem countError_refused (s : State) :
    (countError s).refused = s.refused := rfl
@[simp] theorem countError_reasons (s : State) :
    (countError s).reasons = s.reasons := rfl
@[simp] theorem countError_cmd (s : State) :
    (countError s).cmd = s.cmd := rfl
@[simp] theorem countError_resp (s : State) :
    (countError s).resp = s.resp := rfl
@[simp] theorem countError_rn (s : State) :
    (countError s).rn = s.rn := rfl
@[simp] theorem countError_req (s : State) :
    (countError s).req = s.req := rfl
@[simp] theorem countError_bustrace (s : State) :
    (countError s).bustrace = s.bustrace := rfl
@[simp] theorem countError_diagtrace (s : State) :
    (countError s).diagtrace = s.diagtrace := rfl
@[simp] theorem countError_mem (s : State) :
    (countError s).mem = s.mem := rfl
@[simp] theorem countError_todo (s : State) :
    (countError s).todo = s.todo := rfl
@[simp] theorem countError_verdict (s : State) :
    (countError s).verdict = s.verdict := rfl
@[simp] theorem countError_caller (s : State) :
    (countError s).caller = s.caller := rfl
@[simp] theorem countError_moves (s : State) :
    (countError s).moves = s.moves := rfl
@[simp] theorem countError_answers (s : State) :
    (countError s).answers = s.answers := rfl
@[simp] theorem countError_draws (s : State) :
    (countError s).draws = s.draws := rfl
@[simp] theorem countError_answerAt (s : State) (j : Nat) :
    (countError s).answerAt j = s.answerAt j := rfl
@[simp] theorem countError_drawIndex (s : State) (j : Nat) :
    (countError s).drawIndex j = s.drawIndex j := rfl
@[simp] theorem countError_bytesAt (s : State) (j n : Nat) :
    (countError s).bytesAt j n = s.bytesAt j n := rfl
@[simp] theorem countError_viewOf (s : State) (d : Nat) :
    viewOf (countError s) d = viewOf s d := rfl
@[simp] theorem countError_resultsOf (s : State) (d : Nat) :
    resultsOf (countError s) d = resultsOf s d := rfl
@[simp] theorem countError_pendingOf (s : State) (d : Nat) :
    pendingOf (countError s) d = pendingOf s d := rfl
@[simp] theorem countError_waitingCall (s : State) (d : Nat) :
    waitingCall (countError s) d = waitingCall s d := rfl

/-! ### clearErrors -/

@[simp] theorem clearErrors_params (s : State) :
    (clearErrors s).params = s.params := rfl
@[simp] theorem clearErrors_phase (s : State) :
    (clearErrors s).phase = s.phase := rfl
@[simp] theorem clearErrors_estate (s : State) :
    (clearErrors s).estate = s.estate := rfl
@[simp] theorem clearErrors_errcnt (s : State) :
    (clearErrors s).errcnt = 0 := rfl
@[simp] theorem clearErrors_trace (s : State) :
    (clearErrors s).trace = s.trace := rfl
@[simp] theorem clearErrors_callers (s : State) :
    (clearErrors s).callers = s.callers := rfl
@[simp] theorem clearErrors_lock (s : State) :
    (clearErrors s).lock = s.lock := rfl
@[simp] theorem clearErrors_chan (s : State) :
    (clearErrors s).chan = s.chan := rfl
@[simp] theorem clearErrors_fault (s : State) :
    (clearErrors s).fault = s.fault := rfl
@[simp] theorem clearErrors_refused (s : State) :
    (clearErrors s).refused = s.refused := rfl
@[simp] theorem clearErrors_reasons (s : State) :
    (clearErrors s).reasons = s.reasons := rfl
@[simp] theorem clearErrors_cmd (s : State) :
    (clearErrors s).cmd = s.cmd := rfl
@[simp] theorem clearErrors_resp (s : State) :
    (clearErrors s).resp = s.resp := rfl
@[simp] theorem clearErrors_rn (s : State) :
    (clearErrors s).rn = s.rn := rfl
@[simp] theorem clearErrors_req (s : State) :
    (clearErrors s).req = s.req := rfl
@[simp] theorem clearErrors_bustrace (s : State) :
    (clearErrors s).bustrace = s.bustrace := rfl
@[simp] theorem clearErrors_diagtrace (s : State) :
    (clearErrors s).diagtrace = s.diagtrace := rfl
@[simp] theorem clearErrors_mem (s : State) :
    (clearErrors s).mem = s.mem := rfl
@[simp] theorem clearErrors_todo (s : State) :
    (clearErrors s).todo = s.todo := rfl
@[simp] theorem clearErrors_verdict (s : State) :
    (clearErrors s).verdict = s.verdict := rfl
@[simp] theorem clearErrors_caller (s : State) :
    (clearErrors s).caller = s.caller := rfl
@[simp] theorem clearErrors_moves (s : State) :
    (clearErrors s).moves = s.moves := rfl
@[simp] theorem clearErrors_answers (s : State) :
    (clearErrors s).answers = s.answers := rfl
@[simp] theorem clearErrors_draws (s : State) :
    (clearErrors s).draws = s.draws := rfl
@[simp] theorem clearErrors_answerAt (s : State) (j : Nat) :
    (clearErrors s).answerAt j = s.answerAt j := rfl
@[simp] theorem clearErrors_drawIndex (s : State) (j : Nat) :
    (clearErrors s).drawIndex j = s.drawIndex j := rfl
@[simp] theorem clearErrors_bytesAt (s : State) (j n : Nat) :
    (clearErrors s).bytesAt j n = s.bytesAt j n := rfl
@[simp] theorem clearErrors_viewOf (s : State) (d : Nat) :
    viewOf (clearErrors s) d = viewOf s d := rfl
@[simp] theorem clearErrors_resultsOf (s : State) (d : Nat) :
    resultsOf (clearErrors s) d = resultsOf s d := rfl
@[simp] theorem clearErrors_pendingOf (s : State) (d : Nat) :
    pendingOf (clearErrors s) d = pendingOf s d := rfl
@[simp] theorem clearErrors_waitingCall (s : State) (d : Nat) :
    waitingCall (clearErrors s) d = waitingCall s d := rfl

/-! ### throttle -/

@[simp] theorem throttle_params (c : Nat) (kind : DiagKind) (s : State) :
    (throttle c kind s).params = s.params := rfl
@[simp] theorem throttle_phase (c : Nat) (kind : DiagKind) (s : State) :
    (throttle c kind s).phase = s.phase := rfl
@[simp] theorem throttle_estate (c : Nat) (kind : DiagKind) (s : State) :
    (throttle c kind s).estate = s.estate := rfl
@[simp] theorem throttle_errcnt (c : Nat) (kind : DiagKind) (s : State) :
    (throttle c kind s).errcnt = s.errcnt := rfl
@[simp] theorem throttle_trace (c : Nat) (kind : DiagKind) (s : State) :
    (throttle c kind s).trace = s.trace := rfl
@[simp] theorem throttle_callers (c : Nat) (kind : DiagKind) (s : State) :
    (throttle c kind s).callers = s.callers := rfl
@[simp] theorem throttle_lock (c : Nat) (kind : DiagKind) (s : State) :
    (throttle c kind s).lock = s.lock := rfl
@[simp] theorem throttle_chan (c : Nat) (kind : DiagKind) (s : State) :
    (throttle c kind s).chan = s.chan := rfl
@[simp] theorem throttle_fault (c : Nat) (kind : DiagKind) (s : State) :
    (throttle c kind s).fault = s.fault := rfl
@[simp] theorem throttle_refused (c : Nat) (kind : DiagKind) (s : State) :
    (throttle c kind s).refused = s.refused := rfl
@[simp] theorem throttle_reasons (c : Nat) (kind : DiagKind) (s : State) :
    (throttle c kind s).reasons = s.reasons := rfl
@[simp] theorem throttle_cmd (c : Nat) (kind : DiagKind) (s : State) :
    (throttle c kind s).cmd = s.cmd := rfl
@[simp] theorem throttle_resp (c : Nat) (kind : DiagKind) (s : State) :
    (throttle c kind s).resp = s.resp := rfl
@[simp] theorem throttle_rn (c : Nat) (kind : DiagKind) (s : State) :
    (throttle c kind s).rn = s.rn := rfl
@[simp] theorem throttle_req (c : Nat) (kind : DiagKind) (s : State) :
    (throttle c kind s).req = s.req := rfl
@[simp] theorem throttle_bustrace (c : Nat) (kind : DiagKind) (s : State) :
    (throttle c kind s).bustrace = s.bustrace := rfl
@[simp] theorem throttle_diagtrace (c : Nat) (kind : DiagKind) (s : State) :
    (throttle c kind s).diagtrace = s.diagtrace ++ throttleEvents (viewOf s c) kind s.errcnt := rfl
@[simp] theorem throttle_mem (c : Nat) (kind : DiagKind) (s : State) :
    (throttle c kind s).mem = s.mem := rfl
@[simp] theorem throttle_todo (c : Nat) (kind : DiagKind) (s : State) :
    (throttle c kind s).todo = s.todo := rfl
@[simp] theorem throttle_verdict (c : Nat) (kind : DiagKind) (s : State) :
    (throttle c kind s).verdict = s.verdict := rfl
@[simp] theorem throttle_caller (c : Nat) (kind : DiagKind) (s : State) :
    (throttle c kind s).caller = s.caller := rfl
@[simp] theorem throttle_moves (c : Nat) (kind : DiagKind) (s : State) :
    (throttle c kind s).moves = s.moves := rfl
@[simp] theorem throttle_answers (c : Nat) (kind : DiagKind) (s : State) :
    (throttle c kind s).answers = s.answers := rfl
@[simp] theorem throttle_draws (c : Nat) (kind : DiagKind) (s : State) :
    (throttle c kind s).draws = s.draws := rfl
@[simp] theorem throttle_answerAt (c : Nat) (kind : DiagKind) (s : State) (j : Nat) :
    (throttle c kind s).answerAt j = s.answerAt j := rfl
@[simp] theorem throttle_drawIndex (c : Nat) (kind : DiagKind) (s : State) (j : Nat) :
    (throttle c kind s).drawIndex j = s.drawIndex j := rfl
@[simp] theorem throttle_bytesAt (c : Nat) (kind : DiagKind) (s : State) (j n : Nat) :
    (throttle c kind s).bytesAt j n = s.bytesAt j n := rfl
@[simp] theorem throttle_viewOf (c : Nat) (kind : DiagKind) (s : State) (d : Nat) :
    viewOf (throttle c kind s) d = viewOf s d := rfl
@[simp] theorem throttle_resultsOf (c : Nat) (kind : DiagKind) (s : State) (d : Nat) :
    resultsOf (throttle c kind s) d = resultsOf s d := rfl
@[simp] theorem throttle_pendingOf (c : Nat) (kind : DiagKind) (s : State) (d : Nat) :
    pendingOf (throttle c kind s) d = pendingOf s d := rfl
@[simp] theorem throttle_waitingCall (c : Nat) (kind : DiagKind) (s : State) (d : Nat) :
    waitingCall (throttle c kind s) d = waitingCall s d := rfl

/-! ### setTrace -/

@[simp] theorem setTrace_params (c : Nat) (b : Bool) (s : State) :
    (setTrace c b s).params = s.params := rfl
@[simp] theorem setTrace_phase (c : Nat) (b : Bool) (s : State) :
    (setTrace c b s).phase = s.phase := rfl
@[simp] theorem setTrace_estate (c : Nat) (b : Bool) (s : State) :
    (setTrace c b s).estate = s.estate := rfl
@[simp] theorem setTrace_errcnt (c : Nat) (b : Bool) (s : State) :
    (setTrace c b s).errcnt = s.errcnt := rfl
@[simp] theorem setTrace_trace (c : Nat) (b : Bool) (s : State) :
    (setTrace c b s).trace = b := rfl
@[simp] theorem setTrace_callers (c : Nat) (b : Bool) (s : State) :
    (setTrace c b s).callers = s.callers.modify c (fun k => { k with tview := b }) := rfl
@[simp] theorem setTrace_lock (c : Nat) (b : Bool) (s : State) :
    (setTrace c b s).lock = s.lock := rfl
@[simp] theorem setTrace_chan (c : Nat) (b : Bool) (s : State) :
    (setTrace c b s).chan = s.chan := rfl
@[simp] theorem setTrace_fault (c : Nat) (b : Bool) (s : State) :
    (setTrace c b s).fault = s.fault := rfl
@[simp] theorem setTrace_refused (c : Nat) (b : Bool) (s : State) :
    (setTrace c b s).refused = s.refused := rfl
@[simp] theorem setTrace_reasons (c : Nat) (b : Bool) (s : State) :
    (setTrace c b s).reasons = s.reasons := rfl
@[simp] theorem setTrace_cmd (c : Nat) (b : Bool) (s : State) :
    (setTrace c b s).cmd = s.cmd := rfl
@[simp] theorem setTrace_resp (c : Nat) (b : Bool) (s : State) :
    (setTrace c b s).resp = s.resp := rfl
@[simp] theorem setTrace_rn (c : Nat) (b : Bool) (s : State) :
    (setTrace c b s).rn = s.rn := rfl
@[simp] theorem setTrace_req (c : Nat) (b : Bool) (s : State) :
    (setTrace c b s).req = s.req := rfl
@[simp] theorem setTrace_bustrace (c : Nat) (b : Bool) (s : State) :
    (setTrace c b s).bustrace = s.bustrace := rfl
@[simp] theorem setTrace_diagtrace (c : Nat) (b : Bool) (s : State) :
    (setTrace c b s).diagtrace = s.diagtrace := rfl
@[simp] theorem setTrace_mem (c : Nat) (b : Bool) (s : State) :
    (setTrace c b s).mem = s.mem := rfl
@[simp] theorem setTrace_todo (c : Nat) (b : Bool) (s : State) :
    (setTrace c b s).todo = s.todo := rfl
@[simp] theorem setTrace_verdict (c : Nat) (b : Bool) (s : State) :
    (setTrace c b s).verdict = s.verdict := rfl
@[simp] theorem setTrace_caller (c : Nat) (b : Bool) (s : State) :
    (setTrace c b s).caller = s.caller := rfl
@[simp] theorem setTrace_moves (c : Nat) (b : Bool) (s : State) :
    (setTrace c b s).moves = s.moves := rfl
@[simp] theorem setTrace_answers (c : Nat) (b : Bool) (s : State) :
    (setTrace c b s).answers = s.answers := rfl
@[simp] theorem setTrace_draws (c : Nat) (b : Bool) (s : State) :
    (setTrace c b s).draws = s.draws := rfl
@[simp] theorem setTrace_answerAt (c : Nat) (b : Bool) (s : State) (j : Nat) :
    (setTrace c b s).answerAt j = s.answerAt j := rfl
@[simp] theorem setTrace_drawIndex (c : Nat) (b : Bool) (s : State) (j : Nat) :
    (setTrace c b s).drawIndex j = s.drawIndex j := rfl
@[simp] theorem setTrace_bytesAt (c : Nat) (b : Bool) (s : State) (j n : Nat) :
    (setTrace c b s).bytesAt j n = s.bytesAt j n := rfl

/-! ### propagateTo -/

@[simp] theorem propagateTo_params (d : Nat) (s : State) :
    (propagateTo d s).params = s.params := rfl
@[simp] theorem propagateTo_phase (d : Nat) (s : State) :
    (propagateTo d s).phase = s.phase := rfl
@[simp] theorem propagateTo_estate (d : Nat) (s : State) :
    (propagateTo d s).estate = s.estate := rfl
@[simp] theorem propagateTo_errcnt (d : Nat) (s : State) :
    (propagateTo d s).errcnt = s.errcnt := rfl
@[simp] theorem propagateTo_trace (d : Nat) (s : State) :
    (propagateTo d s).trace = s.trace := rfl
@[simp] theorem propagateTo_callers (d : Nat) (s : State) :
    (propagateTo d s).callers = s.callers.modify d (fun k => { k with tview := s.trace }) := rfl
@[simp] theorem propagateTo_lock (d : Nat) (s : State) :
    (propagateTo d s).lock = s.lock := rfl
@[simp] theorem propagateTo_chan (d : Nat) (s : State) :
    (propagateTo d s).chan = s.chan := rfl
@[simp] theorem propagateTo_fault (d : Nat) (s : State) :
    (propagateTo d s).fault = s.fault := rfl
@[simp] theorem propagateTo_refused (d : Nat) (s : State) :
    (propagateTo d s).refused = s.refused := rfl
@[simp] theorem propagateTo_reasons (d : Nat) (s : State) :
    (propagateTo d s).reasons = s.reasons := rfl
@[simp] theorem propagateTo_cmd (d : Nat) (s : State) :
    (propagateTo d s).cmd = s.cmd := rfl
@[simp] theorem propagateTo_resp (d : Nat) (s : State) :
    (propagateTo d s).resp = s.resp := rfl
@[simp] theorem propagateTo_rn (d : Nat) (s : State) :
    (propagateTo d s).rn = s.rn := rfl
@[simp] theorem propagateTo_req (d : Nat) (s : State) :
    (propagateTo d s).req = s.req := rfl
@[simp] theorem propagateTo_bustrace (d : Nat) (s : State) :
    (propagateTo d s).bustrace = s.bustrace := rfl
@[simp] theorem propagateTo_diagtrace (d : Nat) (s : State) :
    (propagateTo d s).diagtrace = s.diagtrace := rfl
@[simp] theorem propagateTo_mem (d : Nat) (s : State) :
    (propagateTo d s).mem = s.mem := rfl
@[simp] theorem propagateTo_todo (d : Nat) (s : State) :
    (propagateTo d s).todo = s.todo := rfl
@[simp] theorem propagateTo_verdict (d : Nat) (s : State) :
    (propagateTo d s).verdict = s.verdict := rfl
@[simp] theorem propagateTo_caller (d : Nat) (s : State) :
    (propagateTo d s).caller = s.caller := rfl
@[simp] theorem propagateTo_moves (d : Nat) (s : State) :
    (propagateTo d s).moves = s.moves := rfl
@[simp] theorem propagateTo_answers (d : Nat) (s : State) :
    (propagateTo d s).answers = s.answers := rfl
@[simp] theorem propagateTo_draws (d : Nat) (s : State) :
    (propagateTo d s).draws = s.draws := rfl
@[simp] theorem propagateTo_answerAt (d : Nat) (s : State) (j : Nat) :
    (propagateTo d s).answerAt j = s.answerAt j := rfl
@[simp] theorem propagateTo_drawIndex (d : Nat) (s : State) (j : Nat) :
    (propagateTo d s).drawIndex j = s.drawIndex j := rfl
@[simp] theorem propagateTo_bytesAt (d : Nat) (s : State) (j n : Nat) :
    (propagateTo d s).bytesAt j n = s.bytesAt j n := rfl

/-! ### validateResponse -/

@[simp] theorem validateResponse_params (payload : List Byte) (trailer : Byte) (s : State) :
    (validateResponse payload trailer s).params = s.params := rfl
@[simp] theorem validateResponse_phase (payload : List Byte) (trailer : Byte) (s : State) :
    (validateResponse payload trailer s).phase = s.phase := rfl
@[simp] theorem validateResponse_estate (payload : List Byte) (trailer : Byte) (s : State) :
    (validateResponse payload trailer s).estate = s.estate := rfl
@[simp] theorem validateResponse_errcnt (payload : List Byte) (trailer : Byte) (s : State) :
    (validateResponse payload trailer s).errcnt = s.errcnt := rfl
@[simp] theorem validateResponse_trace (payload : List Byte) (trailer : Byte) (s : State) :
    (validateResponse payload trailer s).trace = s.trace := rfl
@[simp] theorem validateResponse_callers (payload : List Byte) (trailer : Byte) (s : State) :
    (validateResponse payload trailer s).callers = s.callers := rfl
@[simp] theorem validateResponse_lock (payload : List Byte) (trailer : Byte) (s : State) :
    (validateResponse payload trailer s).lock = s.lock := rfl
@[simp] theorem validateResponse_chan (payload : List Byte) (trailer : Byte) (s : State) :
    (validateResponse payload trailer s).chan = s.chan := rfl
@[simp] theorem validateResponse_fault (payload : List Byte) (trailer : Byte) (s : State) :
    (validateResponse payload trailer s).fault = s.fault := rfl
@[simp] theorem validateResponse_refused (payload : List Byte) (trailer : Byte) (s : State) :
    (validateResponse payload trailer s).refused = s.refused := rfl
@[simp] theorem validateResponse_reasons (payload : List Byte) (trailer : Byte) (s : State) :
    (validateResponse payload trailer s).reasons = s.reasons := rfl
@[simp] theorem validateResponse_cmd (payload : List Byte) (trailer : Byte) (s : State) :
    (validateResponse payload trailer s).cmd = s.cmd := rfl
@[simp] theorem validateResponse_resp (payload : List Byte) (trailer : Byte) (s : State) :
    (validateResponse payload trailer s).resp = s.resp := rfl
@[simp] theorem validateResponse_rn (payload : List Byte) (trailer : Byte) (s : State) :
    (validateResponse payload trailer s).rn = s.rn := rfl
@[simp] theorem validateResponse_req (payload : List Byte) (trailer : Byte) (s : State) :
    (validateResponse payload trailer s).req = s.req := rfl
@[simp] theorem validateResponse_bustrace (payload : List Byte) (trailer : Byte) (s : State) :
    (validateResponse payload trailer s).bustrace = s.bustrace := rfl
@[simp] theorem validateResponse_diagtrace (payload : List Byte) (trailer : Byte) (s : State) :
    (validateResponse payload trailer s).diagtrace = s.diagtrace := rfl
@[simp] theorem validateResponse_mem (payload : List Byte) (trailer : Byte) (s : State) :
    (validateResponse payload trailer s).mem = s.mem := rfl
@[simp] theorem validateResponse_todo (payload : List Byte) (trailer : Byte) (s : State) :
    (validateResponse payload trailer s).todo = s.todo := rfl
@[simp] theorem validateResponse_verdict (payload : List Byte) (trailer : Byte) (s : State) :
    (validateResponse payload trailer s).verdict = some (verdictOf (payload ++ [trailer]) payload.length) := rfl
@[simp] theorem validateResponse_caller (payload : List Byte) (trailer : Byte) (s : State) :
    (validateResponse payload trailer s).caller = s.caller := rfl
@[simp] theorem validateResponse_moves (payload : List Byte) (trailer : Byte) (s : State) :
    (validateResponse payload trailer s).moves = s.moves := rfl
@[simp] theorem validateResponse_answers (payload : List Byte) (trailer : Byte) (s : State) :
    (validateResponse payload trailer s).answers = s.answers := rfl
@[simp] theorem validateResponse_draws (payload : List Byte) (trailer : Byte) (s : State) :
    (validateResponse payload trailer s).draws = s.draws := rfl
@[simp] theorem validateResponse_answerAt (payload : List Byte) (trailer : Byte) (s : State) (j : Nat) :
    (validateResponse payload trailer s).answerAt j = s.answerAt j := rfl
@[simp] theorem validateResponse_drawIndex (payload : List Byte) (trailer : Byte) (s : State) (j : Nat) :
    (validateResponse payload trailer s).drawIndex j = s.drawIndex j := rfl
@[simp] theorem validateResponse_bytesAt (payload : List Byte) (trailer : Byte) (s : State) (j n : Nat) :
    (validateResponse payload trailer s).bytesAt j n = s.bytesAt j n := rfl
@[simp] theorem validateResponse_viewOf (payload : List Byte) (trailer : Byte) (s : State) (d : Nat) :
    viewOf (validateResponse payload trailer s) d = viewOf s d := rfl
@[simp] theorem validateResponse_resultsOf (payload : List Byte) (trailer : Byte) (s : State) (d : Nat) :
    resultsOf (validateResponse payload trailer s) d = resultsOf s d := rfl
@[simp] theorem validateResponse_pendingOf (payload : List Byte) (trailer : Byte) (s : State) (d : Nat) :
    pendingOf (validateResponse payload trailer s) d = pendingOf s d := rfl
@[simp] theorem validateResponse_waitingCall (payload : List Byte) (trailer : Byte) (s : State) (d : Nat) :
    waitingCall (validateResponse payload trailer s) d = waitingCall s d := rfl

/-! ### moveTaken -/

@[simp] theorem moveTaken_params (s : State) :
    (moveTaken s).params = s.params := rfl
@[simp] theorem moveTaken_phase (s : State) :
    (moveTaken s).phase = s.phase := rfl
@[simp] theorem moveTaken_estate (s : State) :
    (moveTaken s).estate = s.estate := rfl
@[simp] theorem moveTaken_errcnt (s : State) :
    (moveTaken s).errcnt = s.errcnt := rfl
@[simp] theorem moveTaken_trace (s : State) :
    (moveTaken s).trace = s.trace := rfl
@[simp] theorem moveTaken_callers (s : State) :
    (moveTaken s).callers = s.callers := rfl
@[simp] theorem moveTaken_lock (s : State) :
    (moveTaken s).lock = s.lock := rfl
@[simp] theorem moveTaken_chan (s : State) :
    (moveTaken s).chan = s.chan := rfl
@[simp] theorem moveTaken_fault (s : State) :
    (moveTaken s).fault = s.fault := rfl
@[simp] theorem moveTaken_refused (s : State) :
    (moveTaken s).refused = s.refused := rfl
@[simp] theorem moveTaken_reasons (s : State) :
    (moveTaken s).reasons = s.reasons := rfl
@[simp] theorem moveTaken_cmd (s : State) :
    (moveTaken s).cmd = s.cmd := rfl
@[simp] theorem moveTaken_resp (s : State) :
    (moveTaken s).resp = s.resp := rfl
@[simp] theorem moveTaken_rn (s : State) :
    (moveTaken s).rn = s.rn := rfl
@[simp] theorem moveTaken_req (s : State) :
    (moveTaken s).req = s.req := rfl
@[simp] theorem moveTaken_bustrace (s : State) :
    (moveTaken s).bustrace = s.bustrace := rfl
@[simp] theorem moveTaken_diagtrace (s : State) :
    (moveTaken s).diagtrace = s.diagtrace := rfl
@[simp] theorem moveTaken_mem (s : State) :
    (moveTaken s).mem = s.mem := rfl
@[simp] theorem moveTaken_todo (s : State) :
    (moveTaken s).todo = s.todo := rfl
@[simp] theorem moveTaken_verdict (s : State) :
    (moveTaken s).verdict = s.verdict := rfl
@[simp] theorem moveTaken_caller (s : State) :
    (moveTaken s).caller = s.caller := rfl
@[simp] theorem moveTaken_moves (s : State) :
    (moveTaken s).moves = s.moves.drop 1 := rfl
@[simp] theorem moveTaken_answers (s : State) :
    (moveTaken s).answers = s.answers := rfl
@[simp] theorem moveTaken_draws (s : State) :
    (moveTaken s).draws = s.draws + (1 - s.moves.length) := rfl
@[simp] theorem moveTaken_viewOf (s : State) (d : Nat) :
    viewOf (moveTaken s) d = viewOf s d := rfl
@[simp] theorem moveTaken_resultsOf (s : State) (d : Nat) :
    resultsOf (moveTaken s) d = resultsOf s d := rfl
@[simp] theorem moveTaken_pendingOf (s : State) (d : Nat) :
    pendingOf (moveTaken s) d = pendingOf s d := rfl
@[simp] theorem moveTaken_waitingCall (s : State) (d : Nat) :
    waitingCall (moveTaken s) d = waitingCall s d := rfl

/-! ### selectCaller -/

@[simp] theorem selectCaller_params (c : Nat) (s : State) :
    (selectCaller c s).params = s.params := rfl
@[simp] theorem selectCaller_phase (c : Nat) (s : State) :
    (selectCaller c s).phase = s.phase := rfl
@[simp] theorem selectCaller_estate (c : Nat) (s : State) :
    (selectCaller c s).estate = s.estate := rfl
@[simp] theorem selectCaller_errcnt (c : Nat) (s : State) :
    (selectCaller c s).errcnt = s.errcnt := rfl
@[simp] theorem selectCaller_trace (c : Nat) (s : State) :
    (selectCaller c s).trace = s.trace := rfl
@[simp] theorem selectCaller_callers (c : Nat) (s : State) :
    (selectCaller c s).callers = s.callers := rfl
@[simp] theorem selectCaller_lock (c : Nat) (s : State) :
    (selectCaller c s).lock = s.lock := rfl
@[simp] theorem selectCaller_chan (c : Nat) (s : State) :
    (selectCaller c s).chan = s.chan := rfl
@[simp] theorem selectCaller_fault (c : Nat) (s : State) :
    (selectCaller c s).fault = s.fault := rfl
@[simp] theorem selectCaller_refused (c : Nat) (s : State) :
    (selectCaller c s).refused = s.refused := rfl
@[simp] theorem selectCaller_reasons (c : Nat) (s : State) :
    (selectCaller c s).reasons = s.reasons := rfl
@[simp] theorem selectCaller_cmd (c : Nat) (s : State) :
    (selectCaller c s).cmd = s.cmd := rfl
@[simp] theorem selectCaller_resp (c : Nat) (s : State) :
    (selectCaller c s).resp = s.resp := rfl
@[simp] theorem selectCaller_rn (c : Nat) (s : State) :
    (selectCaller c s).rn = s.rn := rfl
@[simp] theorem selectCaller_req (c : Nat) (s : State) :
    (selectCaller c s).req = s.req := rfl
@[simp] theorem selectCaller_bustrace (c : Nat) (s : State) :
    (selectCaller c s).bustrace = s.bustrace := rfl
@[simp] theorem selectCaller_diagtrace (c : Nat) (s : State) :
    (selectCaller c s).diagtrace = s.diagtrace := rfl
@[simp] theorem selectCaller_mem (c : Nat) (s : State) :
    (selectCaller c s).mem = s.mem := rfl
@[simp] theorem selectCaller_todo (c : Nat) (s : State) :
    (selectCaller c s).todo = s.todo := rfl
@[simp] theorem selectCaller_verdict (c : Nat) (s : State) :
    (selectCaller c s).verdict = s.verdict := rfl
@[simp] theorem selectCaller_caller (c : Nat) (s : State) :
    (selectCaller c s).caller = c := rfl
@[simp] theorem selectCaller_moves (c : Nat) (s : State) :
    (selectCaller c s).moves = s.moves := rfl
@[simp] theorem selectCaller_answers (c : Nat) (s : State) :
    (selectCaller c s).answers = s.answers := rfl
@[simp] theorem selectCaller_draws (c : Nat) (s : State) :
    (selectCaller c s).draws = s.draws := rfl
@[simp] theorem selectCaller_answerAt (c : Nat) (s : State) (j : Nat) :
    (selectCaller c s).answerAt j = s.answerAt j := rfl
@[simp] theorem selectCaller_drawIndex (c : Nat) (s : State) (j : Nat) :
    (selectCaller c s).drawIndex j = s.drawIndex j := rfl
@[simp] theorem selectCaller_bytesAt (c : Nat) (s : State) (j n : Nat) :
    (selectCaller c s).bytesAt j n = s.bytesAt j n := rfl
@[simp] theorem selectCaller_viewOf (c : Nat) (s : State) (d : Nat) :
    viewOf (selectCaller c s) d = viewOf s d := rfl
@[simp] theorem selectCaller_resultsOf (c : Nat) (s : State) (d : Nat) :
    resultsOf (selectCaller c s) d = resultsOf s d := rfl
@[simp] theorem selectCaller_pendingOf (c : Nat) (s : State) (d : Nat) :
    pendingOf (selectCaller c s) d = pendingOf s d := rfl
@[simp] theorem selectCaller_waitingCall (c : Nat) (s : State) (d : Nat) :
    waitingCall (selectCaller c s) d = waitingCall s d := rfl

/-! ### setPending -/

@[simp] theorem setPending_params (c : Nat) (call : Call) (s : State) :
    (setPending c call s).params = s.params := rfl
@[simp] theorem setPending_phase (c : Nat) (call : Call) (s : State) :
    (setPending c call s).phase = s.phase := rfl
@[simp] theorem setPending_estate (c : Nat) (call : Call) (s : State) :
    (setPending c call s).estate = s.estate := rfl
@[simp] theorem setPending_errcnt (c : Nat) (call : Call) (s : State) :
    (setPending c call s).errcnt = s.errcnt := rfl
@[simp] theorem setPending_trace (c : Nat) (call : Call) (s : State) :
    (setPending c call s).trace = s.trace := rfl
@[simp] theorem setPending_callers (c : Nat) (call : Call) (s : State) :
    (setPending c call s).callers = s.callers.modify c (fun k => { k with pending := some call, denied := false }) := rfl
@[simp] theorem setPending_lock (c : Nat) (call : Call) (s : State) :
    (setPending c call s).lock = s.lock := rfl
@[simp] theorem setPending_chan (c : Nat) (call : Call) (s : State) :
    (setPending c call s).chan = s.chan := rfl
@[simp] theorem setPending_fault (c : Nat) (call : Call) (s : State) :
    (setPending c call s).fault = s.fault := rfl
@[simp] theorem setPending_refused (c : Nat) (call : Call) (s : State) :
    (setPending c call s).refused = s.refused := rfl
@[simp] theorem setPending_reasons (c : Nat) (call : Call) (s : State) :
    (setPending c call s).reasons = s.reasons := rfl
@[simp] theorem setPending_cmd (c : Nat) (call : Call) (s : State) :
    (setPending c call s).cmd = s.cmd := rfl
@[simp] theorem setPending_resp (c : Nat) (call : Call) (s : State) :
    (setPending c call s).resp = s.resp := rfl
@[simp] theorem setPending_rn (c : Nat) (call : Call) (s : State) :
    (setPending c call s).rn = s.rn := rfl
@[simp] theorem setPending_req (c : Nat) (call : Call) (s : State) :
    (setPending c call s).req = s.req := rfl
@[simp] theorem setPending_bustrace (c : Nat) (call : Call) (s : State) :
    (setPending c call s).bustrace = s.bustrace := rfl
@[simp] theorem setPending_diagtrace (c : Nat) (call : Call) (s : State) :
    (setPending c call s).diagtrace = s.diagtrace := rfl
@[simp] theorem setPending_mem (c : Nat) (call : Call) (s : State) :
    (setPending c call s).mem = s.mem := rfl
@[simp] theorem setPending_todo (c : Nat) (call : Call) (s : State) :
    (setPending c call s).todo = s.todo := rfl
@[simp] theorem setPending_verdict (c : Nat) (call : Call) (s : State) :
    (setPending c call s).verdict = s.verdict := rfl
@[simp] theorem setPending_caller (c : Nat) (call : Call) (s : State) :
    (setPending c call s).caller = s.caller := rfl
@[simp] theorem setPending_moves (c : Nat) (call : Call) (s : State) :
    (setPending c call s).moves = s.moves := rfl
@[simp] theorem setPending_answers (c : Nat) (call : Call) (s : State) :
    (setPending c call s).answers = s.answers := rfl
@[simp] theorem setPending_draws (c : Nat) (call : Call) (s : State) :
    (setPending c call s).draws = s.draws := rfl
@[simp] theorem setPending_answerAt (c : Nat) (call : Call) (s : State) (j : Nat) :
    (setPending c call s).answerAt j = s.answerAt j := rfl
@[simp] theorem setPending_drawIndex (c : Nat) (call : Call) (s : State) (j : Nat) :
    (setPending c call s).drawIndex j = s.drawIndex j := rfl
@[simp] theorem setPending_bytesAt (c : Nat) (call : Call) (s : State) (j n : Nat) :
    (setPending c call s).bytesAt j n = s.bytesAt j n := rfl

end Sys2Proof.Laws
end

