-- ==== Sys2Proof/Laws/Ops.lean ====
section
/-! SUPPORT. For each shared operation, what it can do: the output memory, the bus's answers, the callers, the request
cycle and the agents' moves. -/

namespace Sys2Proof.Laws

open Sys2Proof.Machine

/-! ### The output memory -/

/-- A byte reads as the value last written to it. -/
theorem readByte_writeByte_same (m : List Host.Cell) (a : Nat) (v : Byte) :
    Memory.readByte (Memory.writeByte m a v) a = some v := by
  induction m with
  | nil => simp [Memory.writeByte, Memory.readByte]
  | cons e m ih =>
    obtain ⟨b, w⟩ := e
    by_cases h : a < b
    · simp [Memory.writeByte, Memory.readByte, h]
    · by_cases h' : a = b
      · simp [Memory.writeByte, Memory.readByte, h']
      · simp [Memory.writeByte, Memory.readByte, h, h', ih]

/-- A write leaves every other byte alone. -/
theorem readByte_writeByte_other (m : List Host.Cell) (a x : Nat) (v : Byte) (hx : x ≠ a) :
    Memory.readByte (Memory.writeByte m a v) x = Memory.readByte m x := by
  induction m with
  | nil => simp [Memory.writeByte, Memory.readByte, hx]
  | cons e m ih =>
    obtain ⟨b, w⟩ := e
    by_cases h : a < b
    · simp [Memory.writeByte, Memory.readByte, h, hx]
    · by_cases h' : a = b
      · subst h'; simp [Memory.writeByte, Memory.readByte, hx]
      · simp [Memory.writeByte, Memory.readByte, h, h', ih]

/-- A byte sequence leaves every byte outside its range alone. -/
theorem readByte_writeBytes_outside (bytes : List Byte) (m : List Host.Cell) (out x : Nat)
    (hx : x < out ∨ out + bytes.length ≤ x) :
    Memory.readByte (Memory.writeBytes m out bytes) x = Memory.readByte m x := by
  induction bytes generalizing m out with
  | nil => rfl
  | cons v vs ih =>
    simp only [List.length_cons] at hx
    rw [Memory.writeBytes, ih _ _ (by omega), readByte_writeByte_other _ _ _ _ (by omega)]

/-- A byte sequence reads back byte for byte. -/
theorem readByte_writeBytes_inside (bytes : List Byte) (m : List Host.Cell) (out i : Nat) (hi : i < bytes.length) :
    Memory.readByte (Memory.writeBytes m out bytes) (out + i) = bytes[i]? := by
  induction bytes generalizing m out i with
  | nil => simp at hi
  | cons v vs ih =>
    cases i with
    | zero =>
      rw [Memory.writeBytes, readByte_writeBytes_outside _ _ _ _ (by omega)]
      simpa using readByte_writeByte_same m out v
    | succ j =>
      simp only [List.length_cons] at hi
      have := ih (Memory.writeByte m out v) (out + 1) j (by omega)
      rw [Memory.writeBytes, show out + (j + 1) = out + 1 + j by omega, this]
      simp

/-- Writing below or at the head keeps a bound on the addresses. -/
theorem wf_cons_iff (a : Nat) (v : Byte) (m : List Host.Cell) :
    Memory.wf ((a, v) :: m) = true ↔ (∀ b w, m.head? = some (b, w) → a < b) ∧ Memory.wf m = true := by
  cases m with
  | nil => simp [Memory.wf]
  | cons e m => obtain ⟨b, w⟩ := e; simp [Memory.wf]

/-- The head of a memory after a write: the written address or the old head. -/
theorem head_writeByte (m : List Host.Cell) (a : Nat) (v : Byte) (b : Nat) (w : Byte)
    (h : (Memory.writeByte m a v).head? = some (b, w)) : b = a ∨ ∃ w', m.head? = some (b, w') := by
  cases m with
  | nil => simp [Memory.writeByte] at h; exact .inl h.1.symm
  | cons e m =>
    obtain ⟨b', w'⟩ := e
    simp only [Memory.writeByte] at h
    split at h
    · simp at h; exact .inl h.1.symm
    · split at h
      · simp at h; exact .inl h.1.symm
      · simp at h; exact .inr ⟨w', by simp [h.1]⟩

/-- A write keeps the canonical form. -/
theorem wf_writeByte (m : List Host.Cell) (a : Nat) (v : Byte) (h : Memory.wf m = true) :
    Memory.wf (Memory.writeByte m a v) = true := by
  induction m with
  | nil => simp [Memory.writeByte, Memory.wf]
  | cons e m ih =>
    obtain ⟨b, w⟩ := e
    simp only [Memory.writeByte]
    split
    · rw [wf_cons_iff]; exact ⟨fun b' w' hh => by simp at hh; omega, h⟩
    · split
      · subst_vars; simpa [wf_cons_iff] using h
      · rw [wf_cons_iff] at h ⊢
        refine ⟨fun b' w' hh => ?_, ih h.2⟩
        rcases head_writeByte _ _ _ _ _ hh with rfl | ⟨w'', hw⟩
        · omega
        · exact h.1 _ _ hw

/-- A byte sequence keeps the canonical form. -/
theorem wf_writeBytes (bytes : List Byte) (m : List Host.Cell) (out : Nat) (h : Memory.wf m = true) :
    Memory.wf (Memory.writeBytes m out bytes) = true := by
  induction bytes generalizing m out with
  | nil => exact h
  | cons v vs ih => exact ih _ _ (wf_writeByte _ _ _ h)

/-! ### The bus's answers -/

/-- One draw moves every later answer up by one. -/
@[simp] theorem drawn_answerAt (s : State) (i : Nat) : (drawn s).answerAt i = s.answerAt (i + 1) := by
  have hk : (drawn s).drawIndex i = s.drawIndex (i + 1) := by
    simp only [State.drawIndex, drawn_draws]; omega
  simp [State.answerAt, hk]

@[simp] theorem drawn_drawIndex (s : State) (i : Nat) : (drawn s).drawIndex i = s.drawIndex (i + 1) := by
  simp only [State.drawIndex, drawn_draws]; omega

/-- Two answers never share the index of their free values. -/
theorem drawIndex_injective (s : State) {i j : Nat} (h : s.drawIndex i = s.drawIndex j) : i = j := by
  simpa [State.drawIndex] using h

@[simp] theorem drawn_bytesAt (s : State) (i k : Nat) : (drawn s).bytesAt i k = s.bytesAt (i + 1) k := by
  simp [State.bytesAt]

@[simp] theorem busConfigure_answerAt (s : State) (i : Nat) :
    (busConfigure s).2.answerAt i = s.answerAt (i + 1) := drawn_answerAt s i

@[simp] theorem busConfigure_drawIndex (s : State) (i : Nat) :
    (busConfigure s).2.drawIndex i = s.drawIndex (i + 1) := drawn_drawIndex s i

@[simp] theorem busConfigure_bytesAt (s : State) (i k : Nat) :
    (busConfigure s).2.bytesAt i k = s.bytesAt (i + 1) k := drawn_bytesAt s i k

@[simp] theorem busWriteBytes_answerAt (s : State) (i : Nat) :
    (busWriteBytes s).2.answerAt i = s.answerAt (i + 1) := drawn_answerAt s i

@[simp] theorem busWriteBytes_drawIndex (s : State) (i : Nat) :
    (busWriteBytes s).2.drawIndex i = s.drawIndex (i + 1) := drawn_drawIndex s i

@[simp] theorem busWriteBytes_bytesAt (s : State) (i k : Nat) :
    (busWriteBytes s).2.bytesAt i k = s.bytesAt (i + 1) k := drawn_bytesAt s i k

@[simp] theorem busReadBytes_answerAt (m : Nat) (s : State) (i : Nat) :
    (busReadBytes m s).2.answerAt i = s.answerAt (i + 1) := drawn_answerAt s i

@[simp] theorem busReadBytes_drawIndex (m : Nat) (s : State) (i : Nat) :
    (busReadBytes m s).2.drawIndex i = s.drawIndex (i + 1) := drawn_drawIndex s i

@[simp] theorem busReadBytes_bytesAt (m : Nat) (s : State) (i k : Nat) :
    (busReadBytes m s).2.bytesAt i k = s.bytesAt (i + 1) k := drawn_bytesAt s i k

@[simp] theorem busOpen_answerAt (s : State) (i : Nat) :
    (busOpen s).2.answerAt i = s.answerAt (i + 1) := drawn_answerAt s i

@[simp] theorem busOpen_drawIndex (s : State) (i : Nat) :
    (busOpen s).2.drawIndex i = s.drawIndex (i + 1) := drawn_drawIndex s i

@[simp] theorem busOpen_bytesAt (s : State) (i k : Nat) :
    (busOpen s).2.bytesAt i k = s.bytesAt (i + 1) k := drawn_bytesAt s i k

@[simp] theorem length_fitBytes (k : Nat) (listed : List Byte) (free : Nat → Byte) :
    (fitBytes k listed free).length = k := by simp [fitBytes]

/-- A list of exactly `k` bytes is answered as it is listed. -/
theorem fitBytes_exact (listed : List Byte) (free : Nat → Byte) :
    fitBytes listed.length listed free = listed := by
  apply List.ext_getElem
  · simp
  · intro i h _
    simp only [length_fitBytes] at h
    simp [fitBytes, h]

@[simp] theorem length_bytesAt (s : State) (i k : Nat) : (s.bytesAt i k).length = k := by simp [State.bytesAt]

/-- CHECK_CK of a payload with its trailing byte compares that byte with CK of the payload (R110). -/
theorem checkCk_append (payload : List Byte) (trailer : Byte) :
    checkCk (payload ++ [trailer]) payload.length = (trailer == Config.ck payload) := by
  simp [checkCk]

/-! ### Callers -/

/-- An update of one caller leaves every other caller alone. -/
theorem updateCaller_other (c d : Nat) (f : Caller → Caller) (s : State) (h : d ≠ c) :
    (updateCaller c f s).callers[d]? = s.callers[d]? := by
  simp [Ne.symm h]

/-- An update of one caller changes that caller's record by the function given. -/
theorem updateCaller_same (c : Nat) (f : Caller → Caller) (s : State) :
    (updateCaller c f s).callers[c]? = s.callers[c]?.map f := by
  simp

/-- The caller that receives a result has it at the end of its list. -/
theorem resultsOf_deliver (c : Nat) (r : Result) (s : State) (h : c < s.callers.length) :
    resultsOf (deliver c r s) c = resultsOf s c ++ [r] := by
  simp [resultsOf, h]

/-- Every other caller's results stay. -/
theorem resultsOf_deliver_other (c d : Nat) (r : Result) (s : State) (h : d ≠ c) :
    resultsOf (deliver c r s) d = resultsOf s d := by
  simp [resultsOf, Ne.symm h]

@[simp] theorem resultsOf_release (c d : Nat) (r : Result) (s : State) :
    resultsOf (release c r s) d = resultsOf (deliver c r s) d := rfl

@[simp] theorem resultsOf_raiseFault (c d : Nat) (e : FatalReason) (s : State) :
    resultsOf (raiseFault c e s) d = resultsOf (deliver c (fatalResult e) s) d := rfl

/-! ### The request cycle -/

/-- What a locked request can do: wait or have no step, be refused, be carried on, or find no caller. -/
theorem lockedRequest_cases (i : Instr) (body : Nat → State → State) (s : State) :
    (lockedRequest i body s = .fault .noSuchCaller ∧ s.callers.length ≤ s.caller) ∨
    (lockedRequest i body s = .next s ∧ s.caller < s.callers.length ∧
      (s.lock ≠ .free ∨ admitRequest i s.estate = .noStep)) ∨
    (∃ r, lockedRequest i body s = .next (refuse s.caller r s) ∧ s.caller < s.callers.length ∧ s.lock = .free ∧
      admitRequest i s.estate = .refused r) ∨
    (lockedRequest i body s = .next (body s.caller (acquireLock s.caller i s)) ∧ s.caller < s.callers.length ∧
      s.lock = .free ∧ admitRequest i s.estate = .admitted) := by
  unfold lockedRequest
  by_cases hc : s.caller < s.callers.length
  · cases hl : s.lock with
    | held d => simp [hc]
    | free =>
      cases ha : admitRequest i s.estate with
      | admitted => simp [hc]
      | refused r => simp [hc]
      | noStep => simp [hc]
  · simp [hc]; omega

/-- A locked request in an admitted state, with the lock free, is carried on from acquire. -/
theorem lockedRequest_admitted (i : Instr) (body : Nat → State → State) (s : State)
    (hc : s.caller < s.callers.length) (hl : s.lock = .free) (ha : admitRequest i s.estate = .admitted) :
    lockedRequest i body s = .next (body s.caller (acquireLock s.caller i s)) := by
  simp [lockedRequest, hc, hl, ha]

/-! ### The agents -/

/-- A listed move is taken from the list, and nothing is drawn. -/
@[simp] theorem moveTaken_listed (m : Move) (s : State) : moveTaken { s with moves := m :: s.moves } = s := by
  simp [moveTaken]

/-- A waiting request belongs to a caller that exists. -/
theorem waitingCall_lt {s : State} {c : Nat} {call : Call} (h : waitingCall s c = some call) :
    c < s.callers.length := by
  unfold waitingCall at h
  split at h
  next k hk => exact (List.getElem?_eq_some_iff.mp hk).1
  next => cases h

/-- What serving a caller can do. -/
theorem withWaiting_cases (c : Nat) (run : Instr → State → Host.Outcome State Fault Refusal) (s : State) :
    (withWaiting c run s = .next s ∧ waitingCall s c = none) ∨
    (∃ call r, waitingCall s c = some call ∧ decodeRequest call.word call.out = .error r ∧
      withWaiting c run s = .next (refuse c r s)) ∨
    (∃ call i, waitingCall s c = some call ∧ decodeRequest call.word call.out = .ok i ∧
      withWaiting c run s = run i (selectCaller c s)) := by
  unfold withWaiting
  cases hw : waitingCall s c with
  | none => simp
  | some call =>
    cases hd : decodeRequest call.word call.out with
    | error r => simp [hd]
    | ok i => simp [hd]

/-- What issuing a request can do. -/
theorem issueRequest_cases (c : Nat) (word : ReqWord) (out : Nat) (s : State) :
    (issueRequest c word out s = .next s ∧ mayIssue s c = false) ∨
    (∃ r, mayIssue s c = true ∧ decodeRequest word out = .error r ∧
      issueRequest c word out s = .next (refuse c r (setPending c { word := word, out := out } s))) ∨
    (∃ i, mayIssue s c = true ∧ decodeRequest word out = .ok i ∧ i.takesLock = true ∧
      issueRequest c word out s = .next (setPending c { word := word, out := out } s)) ∨
    (∃ i, mayIssue s c = true ∧ decodeRequest word out = .ok i ∧ i.takesLock = false ∧
      issueRequest c word out s = exec i (selectCaller c (setPending c { word := word, out := out } s))) := by
  unfold issueRequest
  cases hm : mayIssue s c with
  | false => simp
  | true =>
    cases hd : decodeRequest word out with
    | error r => simp
    | ok i => cases ht : i.takesLock <;> simp [ht]

/-- A continued outcome answers next exactly where the outcome does. -/
theorem continueWith_next {o : Host.Outcome State Fault Refusal} {f : State → State} {t : State}
    (h : continueWith o f = .next t) : ∃ u, o = .next u ∧ t = f u := by
  cases o with
  | next u => exact ⟨u, rfl, by simpa [continueWith] using h.symm⟩
  | fault r => cases h
  | refused r => cases h

end Sys2Proof.Laws
end

