-- ==== Sys2Proof/Laws/PerInstr.lean ====
section
/-! SUPPORT. Per instruction: its encoding has the length of its row of spec/opcode_table.json and its fixed bits. -/

namespace Sys2Proof.Laws

/-- A row of spec/opcode_table.json: its length in bits, its mask and its match. -/
structure OpcodeRow where
  bits    : Nat
  mask    : BitVec 32
  pattern : BitVec 32
  deriving DecidableEq, Repr

/-- The row of an instruction. The table gives RESPONSE no bits: its length is the one of R87, and no bit of it is
fixed. -/
def opcodeRow (i : Instr) : OpcodeRow :=
  match i with
  | .init => ⟨32, 0xFFFFFFFF#32, 0x01000000#32⟩
  | .write _ _ => ⟨32, 0xFF8000FF#32, 0x02000000#32⟩
  | .read _ _ _ => ⟨32, 0xFF8000FF#32, 0x03000000#32⟩
  | .shutdown => ⟨32, 0xFFFFFFFF#32, 0x04000000#32⟩
  | .setLogging _ => ⟨32, 0xFFFFFEFF#32, 0x05000000#32⟩
  | .writeCmd _ _ _ => ⟨24, 0x800000#32, 0x800000#32⟩
  | .readCmd _ _ _ => ⟨24, 0x800000#32, 0x000000#32⟩
  | .response payload _ => ⟨8 * (payload.length + 1), 0#32, 0#32⟩
  | .configure => ⟨8, 0xFF#32, 0x10#32⟩
  | .writeBytes => ⟨8, 0xFF#32, 0x11#32⟩
  | .delay _ => ⟨8, 0xFF#32, 0x12#32⟩
  | .readBytes _ => ⟨8, 0xFF#32, 0x13#32⟩
  | .closeBus => ⟨8, 0xFF#32, 0x14#32⟩
  | .openBus => ⟨8, 0xFF#32, 0x15#32⟩

/-- A packet's length in bits and its word as the table numbers it: a command frame is `byte0 << 16 | byte1 << 8 | byte2`
(R85). -/
def packetWord (p : Packet) : Nat × BitVec 32 :=
  match p with
  | .request w _ => (32, w)
  | .command bytes => (8 * bytes.length, 0#8 ++ bytes.getD 0 0#8 ++ bytes.getD 1 0#8 ++ bytes.getD 2 0#8)
  | .response _ bytes => (8 * bytes.length, 0#32)
  | .action tag _ => (8, tag.setWidth 32)

/-- A mask and a word, byte by byte. -/
theorem and_bytes (a b c d a' b' c' d' : Byte) :
    ((a ++ b ++ c ++ d : BitVec 32) &&& (a' ++ b' ++ c' ++ d' : BitVec 32)) =
      (a &&& a') ++ (b &&& b') ++ (c &&& c') ++ (d &&& d') := by
  apply BitVec.eq_of_getLsbD_eq
  intro i hi
  simp only [BitVec.getLsbD_and, BitVec.getLsbD_append]
  split
  · rfl
  · split
    · rfl
    · split <;> rfl

/-- An address byte has bit 7 clear. -/
theorem address_and_marker (a : RegAddr) : (a.setWidth 8 : Byte) &&& 0x80#8 = 0#8 := by
  revert a
  decide

/-- A marked address byte has bit 7 set. -/
theorem marked_and_marker (a : RegAddr) : (a.setWidth 8 ||| Config.writeFlag : Byte) &&& 0x80#8 = 0x80#8 := by
  revert a
  decide

/-- The encoding of a well-formed instruction lies in its row of the opcode table. -/
def TableRow.Statement (i : Instr) : Prop :=
  i.wellFormed = true → (packetWord (encode i)).1 = (opcodeRow i).bits ∧
    (packetWord (encode i)).2 &&& (opcodeRow i).mask = (opcodeRow i).pattern

theorem TableRow.init : TableRow.Statement .init := fun _ => by decide

theorem TableRow.write (addr : RegAddr) (value : Byte) : TableRow.Statement (.write addr value) := fun _ =>
  ⟨rfl, (and_bytes _ _ _ _ 0xFF#8 0x80#8 0x00#8 0xFF#8).trans (by rw [address_and_marker, BitVec.and_zero]; rfl)⟩

theorem TableRow.read (addr : RegAddr) (len : Byte) (out : Nat) : TableRow.Statement (.read addr len out) := fun _ =>
  ⟨rfl, (and_bytes _ _ _ _ 0xFF#8 0x80#8 0x00#8 0xFF#8).trans (by rw [address_and_marker, BitVec.and_zero]; rfl)⟩

theorem TableRow.shutdown : TableRow.Statement .shutdown := fun _ => by decide

theorem TableRow.setLogging (enable : Bool) : TableRow.Statement (.setLogging enable) := by
  cases enable <;> exact fun _ => by decide

theorem TableRow.writeCmd (addr : RegAddr) (value c : Byte) : TableRow.Statement (.writeCmd addr value c) := fun _ =>
  ⟨rfl, (and_bytes _ _ _ _ 0x00#8 0x80#8 0x00#8 0x00#8).trans
    (by simp only [List.getD_cons_zero]; rw [marked_and_marker]; simp only [BitVec.and_zero]; rfl)⟩

theorem TableRow.readCmd (addr : RegAddr) (len c : Byte) : TableRow.Statement (.readCmd addr len c) := fun _ =>
  ⟨rfl, (and_bytes _ _ _ _ 0x00#8 0x80#8 0x00#8 0x00#8).trans
    (by simp only [List.getD_cons_zero]; rw [address_and_marker]; simp only [BitVec.and_zero]; rfl)⟩

theorem TableRow.response (payload : List Byte) (trailer : Byte) : TableRow.Statement (.response payload trailer) :=
  fun _ => ⟨by simp [encode, packetWord, opcodeRow], by simp [encode, packetWord, opcodeRow]⟩

theorem TableRow.configure : TableRow.Statement .configure := fun _ => by decide

theorem TableRow.writeBytes : TableRow.Statement .writeBytes := fun _ => by decide

theorem TableRow.delay (us : Nat) : TableRow.Statement (.delay us) := fun _ =>
  ⟨rfl, by simp only [encode, packetWord, opcodeRow]; decide⟩

theorem TableRow.readBytes (k : Nat) : TableRow.Statement (.readBytes k) := fun _ =>
  ⟨rfl, by simp only [encode, packetWord, opcodeRow]; decide⟩

theorem TableRow.closeBus : TableRow.Statement .closeBus := fun _ => by decide

theorem TableRow.openBus : TableRow.Statement .openBus := fun _ => by decide

end Sys2Proof.Laws
end

