-- ==== Sys2Proof/Laws/Requests.lean ====
section
/-! SUPPORT. For each shared part of a request, what it leaves: release, the fatal fault, the throttle, the response check,
the recovery. -/

namespace Sys2Proof.Laws

open Sys2Proof.Machine

/-- A release on a state whose callers are those of `s` leaves what R74 says. -/
theorem releasedWith_release (s t : State) (c : Nat) (r : Result) (h : t.callers = s.callers)
    (hc : c < s.callers.length) : ReleasedWith s (release c r t) c r := by
  refine ⟨rfl, rfl, rfl, rfl, ?_, ?_, ?_, fun d hd => ?_⟩
  · simp [resultsOf, h, hc]
  · simp [pendingOf, h, hc]
  · simp [viewOf, h, hc]
  · simp [h, Ne.symm hd]

/-- A fatal fault on such a state leaves the same, with the code of its reason. -/
theorem releasedWith_raiseFault (s t : State) (c : Nat) (e : FatalReason) (h : t.callers = s.callers)
    (hc : c < s.callers.length) : ReleasedWith s (raiseFault c e t) c (fatalResult e) :=
  releasedWith_release s _ c _ h hc

/-- THROTTLE's diagnostic trace is the one of R167 on the count it finds. -/
theorem throttle_emits (c : Nat) (kind : DiagKind) (s : State) :
    (throttle c kind s).diagtrace = throttledTrace s c kind s.errcnt := rfl

/-- The throttled trace depends on the callers and the old trace alone. -/
theorem throttledTrace_congr {s t : State} (hc : s.callers = t.callers) (hd : s.diagtrace = t.diagtrace)
    (c : Nat) (kind : DiagKind) (k : Nat) : throttledTrace s c kind k = throttledTrace t c kind k := by
  have hv : viewOf s c = viewOf t c := by simp only [viewOf, hc]
  simp only [throttledTrace, hv, hd]

/-- The verdict on a payload with its trailing byte (R119). -/
theorem verdictOf_append (payload : List Byte) (trailer : Byte) :
    verdictOf (payload ++ [trailer]) payload.length =
      if trailer = Config.ck payload then .valid else .checksumMismatch := by
  simp [verdictOf, checkCk_append]

/-- READ's CHECK phase commits a frame whose trailing byte is CK of its payload. -/
theorem checkRead_valid (len : Byte) (out c : Nat) (s : State)
    (h : trailerOf s.resp len = Config.ck (payloadOf s.resp len)) :
    checkRead len out c s =
      commitRead len out c (setPhase .commit (validateResponse (payloadOf s.resp len) (trailerOf s.resp len) s)) := by
  simp only [checkRead, validateResponse_verdict, verdictOf_append, h, if_true]

/-- READ's CHECK phase recovers from a frame whose trailing byte is another. -/
theorem checkRead_mismatch (len : Byte) (out c : Nat) (s : State)
    (h : trailerOf s.resp len ≠ Config.ck (payloadOf s.resp len)) :
    checkRead len out c s =
      recoverRead c (validateResponse (payloadOf s.resp len) (trailerOf s.resp len) s) := by
  simp [checkRead, verdictOf_append, h]

/-- A response of `n + 1` bytes is its first `n` and its last, and what follows in the buffer does not matter. -/
theorem response_parts {bytes payload : List Byte} {trailer : Byte} {len : Byte} (hl : bytes.length = len.toNat + 1)
    (h : bytes = payload ++ [trailer]) (rest : List Byte) :
    payload.length = len.toNat ∧ payloadOf (bytes ++ rest) len = payload ∧ trailerOf (bytes ++ rest) len = trailer := by
  subst h
  simp only [List.length_append, List.length_cons, List.length_nil, Nat.zero_add, Nat.add_right_cancel_iff] at hl
  refine ⟨hl, ?_, ?_⟩
  · simp [payloadOf, ← hl]
  · simp [trailerOf, ← hl]

/-- The engine puts a full-length response to the validator. -/
theorem afterResponse_full (r : Request) (s : State) (h : s.rn = responseLength r.data) :
    afterResponse r s =
      setTodo [.response (payloadOf s.resp r.data) (trailerOf s.resp r.data)] (setPhase .check s) := if_pos h

/-- The engine ends a READ whose response has another length with READ_ERROR. -/
theorem afterResponse_short (r : Request) (s : State) (h : s.rn ≠ responseLength r.data) :
    afterResponse r s = release r.caller .readError (throttle r.caller .readError (countError s)) := if_neg h

/-- REINITIALIZE completes where OPEN, and the CONFIGURE after it if there is one, answer ok. -/
theorem reinitialize_completes (s : State) (ho : (s.answerAt 0).ok = true)
    (hc : s.params.reconfigOnReinit = true → (s.answerAt 1).ok = true) : (reinitialize s).1 = true := by
  cases hr : s.params.reconfigOnReinit <;> simp [reinitialize, ho, hr, hc]

/-- REINITIALIZE fails where OPEN answers fail, or the CONFIGURE after it. -/
theorem reinitialize_fails (s : State)
    (h : (s.answerAt 0).ok = false ∨ (s.params.reconfigOnReinit = true ∧ (s.answerAt 1).ok = false)) :
    (reinitialize s).1 = false := by
  cases ho : (s.answerAt 0).ok <;> simp_all [reinitialize]

end Sys2Proof.Laws
end

