-- ==== Sys2Proof/Machine/Assembly.lean ====
section
/-! DEFINITION. The assembler of spec/30_encoding.md R95 and R96: a program's lines as syntax, the requests they
assemble to, and the moves that issue them one after another. -/

namespace Sys2Proof.Machine

/-- One line of R95, or a pseudo-instruction of R96. Operands are bytes as the request word holds them, so a line may
assemble to a word that the block refuses. -/
inductive AsmOp where
  | init
  | write (addr value : Byte)
  | read (addr len : Byte) (out : Nat)
  | shutdown
  | setlog (enable : Bool)
  | logon
  | logoff
  deriving DecidableEq, Repr

/-- A program (R95, R96): `c<k>:` lines, `rep <N>` blocks, and the reader's annotations `expect`. -/
inductive AsmProgram where
  | done
  | line (c : Nat) (op : AsmOp) (rest : AsmProgram)
  | rep (n : Nat) (body rest : AsmProgram)
  | expect (r : Result) (rest : AsmProgram)
  deriving DecidableEq, Repr

/-- The request word and OUT of one line (R89, R90, R95); `logon` is `setlog 1`, `logoff` is `setlog 0` (R96). -/
def assembleOp (op : AsmOp) : Call :=
  match op with
  | .init => { word := reqWord 0x01#8 0#8 0#8, out := 0 }
  | .write addr value => { word := reqWord 0x02#8 addr value, out := 0 }
  | .read addr len out => { word := reqWord 0x03#8 addr len, out := out }
  | .shutdown => { word := reqWord 0x04#8 0#8 0#8, out := 0 }
  | .setlog enable => { word := reqWord 0x05#8 0#8 (if enable then 1#8 else 0#8), out := 0 }
  | .logon => { word := reqWord 0x05#8 0#8 1#8, out := 0 }
  | .logoff => { word := reqWord 0x05#8 0#8 0#8, out := 0 }

/-- `n` copies of a list, one after another. -/
def copies (n : Nat) (calls : List (Nat × Call)) : List (Nat × Call) :=
  match n with
  | 0 => []
  | k + 1 => calls ++ copies k calls

/-- The requests of a program in order, each with its caller; `rep` unrolls and `expect` is no request (R96). -/
def assemble : AsmProgram → List (Nat × Call)
  | .done => []
  | .line c op rest => (c, assembleOp op) :: assemble rest
  | .rep n body rest => copies n (assemble body) ++ assemble rest
  | .expect _ rest => assemble rest

/-- The moves that issue the requests one after another and serve each before the next is issued. -/
def programMoves : List (Nat × Call) → List Move
  | [] => []
  | (c, call) :: rest => .issue c call.word call.out :: .serve c :: programMoves rest

end Sys2Proof.Machine
end

