-- ==== Sys2Proof/Tests/Slice0.lean ====
section
/-! SUPPORT. The tests: ill-formed terms, words decoded as spec/30_encoding.md and spec/95_test_vectors.md write them, single
steps of the vectors, and a witness for the hypotheses of every obligation that has some. -/

namespace Sys2Proof.Tests

open Sys2Proof.Machine Sys2Proof.Laws

/-! ### Small states -/

/-- Reset, with an engine state, a channel state and listed bus answers. -/
def stateIn (e : EngineState) (chan : Channel) (answers : List Answer) : State :=
  { State.reset with estate := e, chan := chan, answers := answers }

/-- READY on a configured channel, caller 0's view set, with a count and listed bus answers. -/
def ready (errcnt : Nat) (answers : List Answer) : State :=
  { stateIn .ready .configured answers with
    errcnt := errcnt, trace := true,
    callers := [{ Caller.atReset Config.atReset with tview := true }, Caller.atReset Config.atReset] }

/-- An answer ok or fail. -/
def status (ok : Bool) : Answer := { ok := ok, n := 0, bytes := [] }

/-- An answer with a count and bytes. -/
def transfer (n : Int) (bytes : List Byte) : Answer := { ok := true, n := n, bytes := bytes }

/-- The next state's part that a test looks at; none where the outcome is no next state. -/
def seen {α : Type} (o : Host.Outcome State Fault Refusal) (f : State → α) : Option α :=
  match o with
  | .next t => some (f t)
  | .fault _ => none
  | .refused _ => none

/-! ### Ill-formed terms -/

theorem test_wf_read_length_zero : (Instr.read 0x10#7 0x00#8 0).wellFormed = false := by decide

theorem test_wf_write_frame_checksum :
    (Instr.writeCmd 0x02#7 0x05#8 (Config.ck [0x82#8, 0x05#8] ^^^ 1#8)).wellFormed = false :=
  decide_eq_false (flipped_ne _)

theorem test_wf_read_frame_checksum :
    (Instr.readCmd 0x10#7 0x04#8 (Config.ck [0x10#8, 0x04#8] ^^^ 1#8)).wellFormed = false :=
  Bool.and_eq_false_iff.mpr (.inr (decide_eq_false (flipped_ne (Config.ck [0x10#8, 0x04#8]))) :
    decide ((0x04#8 : Byte) ≠ 0#8) = false ∨
      frameChecked 0x10#8 0x04#8 (Config.ck [0x10#8, 0x04#8] ^^^ 1#8) = false)

theorem test_wf_read_frame_length_zero (c : Byte) : (Instr.readCmd 0x10#7 0x00#8 c).wellFormed = false := rfl

theorem test_wf_response_empty : (Instr.response [] 0x00#8).wellFormed = false := by decide

theorem test_wf_response_too_long : (Instr.response (List.replicate 256 0x00#8) 0x00#8).wellFormed = false := by
  simp only [Instr.wellFormed, List.length_replicate]; decide

theorem test_wf_delay_other : (Instr.delay 5).wellFormed = false := by decide

theorem test_wf_readBytes_short : (Instr.readBytes 1).wellFormed = false := by decide

theorem test_wf_readBytes_long : (Instr.readBytes 257).wellFormed = false := by decide

/-! ### Decoding: the words of spec/95_test_vectors.md section 2.3, and tags of R94 -/

theorem test_decode_E1 : decodeRequest 0x01000000#32 0 = .ok .init := by decide
theorem test_decode_E2 : decodeRequest 0x02020500#32 0 = .ok (.write 0x02#7 0x05#8) := by decide
theorem test_decode_E3 : decodeRequest 0x03100400#32 0x100 = .ok (.read 0x10#7 0x04#8 0x100) := by decide
theorem test_decode_E4 : decodeRequest 0x04000000#32 0 = .ok .shutdown := by decide
theorem test_decode_E5 : decodeRequest 0x05000100#32 0 = .ok (.setLogging true) ∧
    decodeRequest 0x05000000#32 0 = .ok (.setLogging false) := by decide
theorem test_decode_E14 : decodeRequest 0x027FFF00#32 0 = .ok (.write 0x7F#7 0xFF#8) := by decide
theorem test_decode_E15 (c : Byte) : decode (.command [0x82#8, 0x05#8, c]) = .ok (.writeCmd 0x02#7 0x05#8 c) := rfl
theorem test_decode_E16 (c : Byte) : decode (.command [0x10#8, 0x04#8, c]) = .ok (.readCmd 0x10#7 0x04#8 c) := rfl
theorem test_decode_E17 (c : Byte) : decode (.command [0xFF#8, 0x00#8, c]) = .ok (.writeCmd 0x7F#7 0x00#8 c) := rfl
theorem test_decode_response : decode (.response 2 [0x12#8, 0x34#8, 0x6B#8]) = .ok (.response [0x12#8, 0x34#8] 0x6B#8) := by
  decide
theorem test_decode_configure : decode (.action 0x10#8 0) = .ok .configure := by decide
theorem test_decode_writeBytes : decode (.action 0x11#8 0) = .ok .writeBytes := by decide
theorem test_decode_delay : decode (.action 0x12#8 1000) = .ok (.delay 1000) := by decide
theorem test_decode_readBytes : decode (.action 0x13#8 5) = .ok (.readBytes 5) := by decide
theorem test_decode_closeBus : decode (.action 0x14#8 0) = .ok .closeBus := by decide
theorem test_decode_openBus : decode (.action 0x15#8 0) = .ok .openBus := by decide

/-- E6 to E13, with the first and last word of each reserved range. -/
theorem test_refused_words :
    decodeRequest 0x00000000#32 0 = .error .badOp ∧ decodeRequest 0x06000000#32 0 = .error .badOp ∧
    decodeRequest 0xFF000000#32 0 = .error .badOp ∧ decodeRequest 0x01000001#32 0 = .error .reservedBits ∧
    decodeRequest 0x04010000#32 0 = .error .reservedBits ∧ decodeRequest 0x05000300#32 0 = .error .reservedBits ∧
    decodeRequest 0x05000200#32 0 = .error .reservedBits ∧ decodeRequest 0x02800000#32 0 = .error .addrRange ∧
    decodeRequest 0x03100000#32 0 = .error .lenRange ∧ decodeRequest 0x03FF0000#32 0 = .error .addrRange ∧
    decodeRequest 0x02800001#32 0 = .error .reservedBits := by decide

theorem test_refused_packets : decode (.command [0x82#8, 0x05#8]) = .error .badFrameLength ∧
    decode (.response 2 [0x12#8, 0x34#8]) = .error .badFrameLength ∧
    decode (.response 0 [0x12#8]) = .error .badFrameLength ∧
    decode (.action 0x16#8 0) = .error .badTag ∧ decode (.action 0x0F#8 0) = .error .badTag := by decide

/-- The program P2 of spec/95_test_vectors.md: its words as that file writes them. -/
theorem test_assemble_P2 :
    assemble (.line 0 .init (.line 0 .logon (.rep 3 (.line 0 (.read 0x10#8 0x02#8 0x200) .done)
      (.expect .ok (.line 0 (.write 0x7F#8 0xFF#8) .done))))) =
      [(0, ⟨0x01000000#32, 0⟩), (0, ⟨0x05000100#32, 0⟩), (0, ⟨0x03100200#32, 0x200⟩), (0, ⟨0x03100200#32, 0x200⟩),
        (0, ⟨0x03100200#32, 0x200⟩), (0, ⟨0x027FFF00#32, 0⟩)] := by decide

/-! ### Single steps: spec/95_test_vectors.md sections 2.1 to 2.8 -/

/-- L3: INIT in READY configures again and keeps the count. -/
theorem test_init_L3 : seen (exec .init (ready 9 [status true]))
    (fun t => (t.estate, t.errcnt, resultsOf t 0, t.bustrace.length)) = some (.ready, 9, [.ok], 1) := by decide

/-- L2 and A2: a failing CONFIGURE is fatal and leaves the channel unconfigured. -/
theorem test_init_L2 : seen (exec .init (stateIn .uninitialized .unconfigured [status false]))
    (fun t => (t.estate, t.fault, t.chan, resultsOf t 0)) =
      some (.faulted, some .busConfigError, .unconfigured, [.busConfigError]) := by decide

/-- W1: three bytes written is OK, the count stays 7. -/
theorem test_write_W1 : seen (exec (.write 0x02#7 0x05#8) (ready 7 [transfer 3 []]))
    (fun t => (t.errcnt, resultsOf t 0, t.bustrace.length, t.diagtrace)) = some (7, [.ok], 1, []) := by decide

/-- W4: a count above three is WRITE_ERROR. -/
theorem test_write_W4 : seen (exec (.write 0x02#7 0x05#8) (ready 7 [transfer 4 []]))
    (fun t => (t.errcnt, resultsOf t 0, t.bustrace.length, t.diagtrace)) = some (7, [.writeError], 1, []) := by decide

/-- R12: with a 4-bit counter, 15 wraps to 0 and nothing is emitted. -/
theorem test_read_R12 : seen (exec (.read 0x10#7 0x02#8 0x200)
      { ready 15 [transfer 3 [], transfer 2 []] with params := { Config.atReset with errcntW := 4 } })
    (fun t => (t.errcnt, resultsOf t 0, t.bustrace.length, t.diagtrace)) = some (0, [.readError], 3, []) := by decide

/-- R9: a mismatch at count 51 emits a suppressed event and adds five recovery actions; the trailing byte differs from CK by
bit 0 (K2). -/
theorem test_read_R9 : ∃ t, exec (.read 0x10#7 0x02#8 0x200) (ready 50
      [transfer 3 [], transfer 3 [0x12#8, 0x34#8, Config.ck [0x12#8, 0x34#8] ^^^ 1#8], status true, status true]) =
        .next t ∧ t.errcnt = 51 ∧ resultsOf t 0 = [.checksumError] ∧ t.bustrace.length = 8 ∧
      t.diagtrace = [{ kind := .checksumError, count := 51, suppressed := true }] := by
  let checked : State := setPhase .check (busReadBytes 3 (setPhase .resp (busDelay 1000 (setPhase .settle
    (busWriteBytes (setCmd (readFrame 0x10#7 0x02#8) (acquireLock 0 (.read 0x10#7 0x02#8 0x200) (ready 50
      [transfer 3 [], transfer 3 [0x12#8, 0x34#8, Config.ck [0x12#8, 0x34#8] ^^^ 1#8], status true,
        status true])))).2)))).2
  refine ⟨checkRead 0x02#8 0x200 0 checked, rfl, ?_⟩
  rw [checkRead_mismatch _ _ _ _ (flipped_ne _)]
  exact ⟨rfl, rfl, rfl, by decide⟩

/-- L8: SHUTDOWN issues no bus action. -/
theorem test_shutdown_L8 : seen (exec .shutdown (ready 0 []))
    (fun t => (t.estate, t.chan, resultsOf t 0, t.bustrace)) = some (.terminated, .configured, [.ok], []) := by decide

/-- L10: a second SHUTDOWN returns OK. -/
theorem test_shutdown_L10 : seen (exec .shutdown (stateIn .terminated .configured []))
    (fun t => (t.estate, resultsOf t 0)) = some (.terminated, [.ok]) := by decide

/-- L12: SET_LOGGING 1 by caller 0 sets its own view and not caller 1's. -/
theorem test_setLogging_L12 : seen (exec (.setLogging true) State.reset)
    (fun t => (t.trace, viewOf t 0, viewOf t 1, resultsOf t 0)) = some (true, true, false, [.ok]) := by decide

/-- L13: Propagate into caller 1 shows it the flag. -/
theorem test_propagate_L13 : seen (step { State.reset with trace := true, moves := [.propagate 1] })
    (fun t => (viewOf t 0, viewOf t 1)) = some (false, true) := by decide

/-- L14: SET_LOGGING in FAULTED takes no step. -/
theorem test_setLogging_L14 : exec (.setLogging true) { State.reset with estate := .faulted } =
    .next { State.reset with estate := .faulted } := rfl

/-- B2: the largest write frame. -/
theorem test_writeCmd_B2 (c : Byte) : seen (exec (.writeCmd 0x7F#7 0xFF#8 c) State.reset) (fun t => t.cmd) =
    some { b0 := 0xFF#8, b1 := 0xFF#8, b2 := Config.ck [0xFF#8, 0xFF#8] } := rfl

/-- B5: the longest read frame. -/
theorem test_readCmd_B5 (c : Byte) : seen (exec (.readCmd 0x7F#7 0xFF#8 c) State.reset) (fun t => t.cmd) =
    some { b0 := 0x7F#8, b1 := 0xFF#8, b2 := Config.ck [0x7F#8, 0xFF#8] } := rfl

/-- K1: a one-byte payload with its CK is valid. -/
theorem test_response_K1 (a : Byte) :
    seen (exec (.response [a] (Config.ck [a])) State.reset) (fun t => t.verdict) = some (some .valid) :=
  congrArg (fun v => some (some v)) ((verdictOf_append [a] (Config.ck [a])).trans (if_pos rfl))

/-- K2: one flipped bit is a mismatch. -/
theorem test_response_K2 (a : Byte) :
    seen (exec (.response [a] (Config.ck [a] ^^^ 1#8)) State.reset) (fun t => t.verdict) = some (some .checksumMismatch) :=
  congrArg (fun v => some (some v)) ((verdictOf_append [a] _).trans (if_neg (flipped_ne _)))

/-- A2: a failing CONFIGURE keeps the channel. -/
theorem test_configure_A2 : seen (exec .configure (stateIn .uninitialized .unconfigured [status false]))
    (fun t => (t.chan, t.bustrace)) =
      some (.unconfigured, [.configure Config.atReset.busConfig false]) := by decide

/-- A1: an ok sets CONFIGURED, and CFG is the record of R130's example. -/
theorem test_configure_A1 : seen (exec .configure (stateIn .uninitialized .unconfigured [status true]))
    (fun t => (t.chan, t.bustrace)) =
      some (.configured, [.configure ⟨500000, .msbFirst, .trailing, .activeLow, .activeLow⟩ true]) := by decide

/-- W5: the count may be negative. -/
theorem test_writeBytes_W5 : seen (exec .writeBytes { State.reset with
      cmd := { b0 := 0x82#8, b1 := 0x05#8, b2 := 0x54#8 }, answers := [transfer (-1) []] })
    (fun t => t.bustrace) = some [.writeBytes [0x82#8, 0x05#8, 0x54#8] (-1)] := by decide

theorem test_delay : seen (exec (.delay 10000) State.reset) (fun t => (t.bustrace, t.chan)) =
    some ([.delay 10000], .unconfigured) := by decide

/-- The bytes go to the front of the buffer in the order received (R61), and the count stands beside them. -/
theorem test_readBytes : seen (exec (.readBytes 2) { State.reset with
      resp := [9#8, 9#8, 7#8], answers := [transfer 1 [0x12#8, 0x34#8]] })
    (fun t => (t.resp, t.rn, t.bustrace)) =
      some ([0x12#8, 0x34#8, 7#8], 1, [.readBytes 2 1 [0x12#8, 0x34#8]]) := by decide

/-- A listed answer that lists too few bytes is filled up, and its index of free values is used up: the next answer has
another one (R17). -/
theorem test_readBytes_short : seen (exec (.readBytes 2) { State.reset with
      resp := [9#8, 9#8, 7#8], answers := [transfer 2 [0x12#8]] })
    (fun t => (t.resp.length, t.resp.head?, t.draws)) = some (3, some 0x12#8, 1) := by decide

/-- A3. -/
theorem test_closeBus_A3 : seen (exec .closeBus (ready 0 [])) (fun t => (t.chan, t.bustrace)) =
    some (.closed, [.closeBus]) := by decide

/-- A4 and A5: OPENED, or CONFIGURED where recovery does not configure again. -/
theorem test_openBus_A4_A5 :
    seen (exec .openBus (stateIn .recovering .closed [status true])) (fun t => t.chan) = some .opened ∧
    seen (exec .openBus { stateIn .recovering .closed [status true] with
      params := { Config.atReset with reconfigOnReinit := false } }) (fun t => t.chan) = some .configured := by decide

/-- A6: a failing OPEN leaves CLOSED. -/
theorem test_openBus_A6 : seen (exec .openBus (stateIn .recovering .closed [status false]))
    (fun t => (t.chan, t.bustrace)) = some (.closed, [.openBus false]) := by decide

/-- T1, T2 and T3. -/
theorem test_throttle_T : throttleEvents true .readError 1 = [⟨.readError, 1, false⟩] ∧
    throttleEvents true .readError 51 = [⟨.readError, 51, true⟩] ∧ throttleEvents true .readError 50 = [] ∧
    throttleEvents true .readError 0 = [] ∧ throttleEvents false .readError 1 = [] := by decide

/-- P6's refused word: the caller keeps its request and receives nothing. -/
theorem test_refused_P6 : seen (step { ready 0 [] with moves := [.issue 0 0x02800000#32 0] })
    (fun t => (t.refused, t.reasons, pendingOf t 0, waitingCall t 0, resultsOf t 0)) =
      some (true, [.addrRange], some ⟨0x02800000#32, 0⟩, none, []) := by decide

/-- The output memory stays sorted, and a rewritten byte has one entry. -/
theorem test_memory : Memory.writeBytes [(2, 9#8)] 1 [1#8, 2#8] = [(1, 1#8), (2, 2#8)] ∧
    Memory.readByte [(1, 1#8), (2, 2#8)] 3 = none := by decide

/-! ### Witnesses: for every obligation with hypotheses, a state and operands that meet them -/

/-- READ of two bytes on READY, as far as its answers: the command written in full, a full response with its trailing
byte, then the answers of a recovery. -/
def answered (trailer : Byte) (recovery : List Answer) : State :=
  ready 0 ([transfer 3 [], transfer 3 [0x12#8, 0x34#8, trailer]] ++ recovery)

/-- The block in a phase of a READ of caller 0, with the rest of the state as `ready` has it. -/
def reading (phase : Phase) (e : EngineState) (chan : Channel) (todo : List Instr) (moves : List Move)
    (answers : List Answer) : State :=
  { ready 0 answers with
    phase := phase, estate := e, chan := chan, lock := .held 0, todo := todo, moves := moves,
    req := some { op := .read, addr := 0x10#8, data := 0x02#8, caller := 0, out := 0x200 } }

/-- Reset with listed moves. -/
def moving (moves : List Move) : State := { State.reset with moves := moves }

/-- READY, with a request of caller 0 pending and its grant listed. -/
def granting (word : ReqWord) (answers : List Answer) : State :=
  { ready 0 answers with
    callers := [{ Caller.atReset Config.atReset with pending := some ⟨word, 0x200⟩ }, Caller.atReset Config.atReset],
    moves := [.serve 0] }

/-- FAULTED, with a move listed. -/
def faulted (moves : List Move) : State :=
  { State.reset with estate := .faulted, fault := some .resetError, moves := moves }

/-- TERMINATED, with a move listed. -/
def terminated (moves : List Move) : State := { State.reset with estate := .terminated, moves := moves }

theorem wit_inv_moving (moves : List Move) : BlockInv (moving moves) :=
  ⟨⟨rfl, rfl, rfl, nofun⟩, nofun, ⟨nofun, fun h => absurd rfl h⟩, Nat.two_pow_pos 32, rfl, ⟨nofun, fun h => absurd rfl h⟩,
    rfl, List.length_replicate⟩

theorem wit_inv_granting (word : ReqWord) (answers : List Answer) : BlockInv (granting word answers) :=
  ⟨⟨rfl, rfl, rfl, nofun⟩, fun _ => rfl, ⟨nofun, fun h => absurd rfl h⟩, Nat.two_pow_pos 32, rfl,
    ⟨nofun, fun h => absurd rfl h⟩, rfl, List.length_replicate⟩

theorem wit_inv_faulted (moves : List Move) : BlockInv (faulted moves) :=
  ⟨⟨rfl, rfl, rfl, nofun⟩, nofun, ⟨fun _ => nofun, fun _ => rfl⟩, Nat.two_pow_pos 32, rfl,
    ⟨nofun, fun h => absurd rfl h⟩, rfl, List.length_replicate⟩

theorem wit_inv_terminated (moves : List Move) : BlockInv (terminated moves) :=
  ⟨⟨rfl, rfl, rfl, nofun⟩, nofun, ⟨nofun, fun h => absurd rfl h⟩, Nat.two_pow_pos 32, rfl,
    ⟨nofun, fun h => absurd rfl h⟩, rfl, List.length_replicate⟩

theorem wit_inv_resp (moves : List Move) (answers : List Answer) :
    BlockInv (reading .resp .ready .configured [.readBytes 3] moves answers) :=
  ⟨⟨rfl, Nat.zero_lt_two, rfl, rfl, rfl⟩, fun _ => rfl, ⟨nofun, fun h => absurd rfl h⟩, Nat.two_pow_pos 32, rfl,
    ⟨nofun, fun h => absurd rfl h⟩, rfl, List.length_replicate⟩

theorem wit_inv_recover (moves : List Move) (answers : List Answer) :
    BlockInv (reading .recover .recovering .closed [.openBus, .configure, .delay 10000] moves answers) :=
  ⟨⟨rfl, Nat.zero_lt_two, rfl, rfl, .inr (.inr (.inl ⟨rfl, rfl⟩))⟩, nofun, ⟨nofun, fun h => absurd rfl h⟩,
    Nat.two_pow_pos 32, rfl, ⟨nofun, fun h => absurd rfl h⟩, rfl, List.length_replicate⟩

theorem wit_DecodeInvertsEncode : (Instr.read 0x7F#7 0xFF#8 0x200).wellFormed = true ∧
    (Instr.writeCmd 0x02#7 0x05#8 (Config.ck [0x82#8, 0x05#8])).wellFormed = true ∧
    (Instr.response [0x00#8] 0x00#8).wellFormed = true ∧ (Instr.readBytes 256).wellFormed = true :=
  ⟨by decide, decide_eq_true rfl, by decide, by decide⟩

theorem wit_RequestWordIsItsEncoding : decodeRequest 0x0301FF00#32 0x200 = .ok (.read 0x01#7 0xFF#8 0x200) ∧
    decodeRequest 0x05000000#32 7 = .ok (.setLogging false) := by decide

theorem wit_WriteFrameInjective : (writeFrame 0x7F#7 0xFF#8).b0 = (writeFrame 0x7F#7 0xFF#8).b0 ∧
    (writeFrame 0x7F#7 0xFF#8).b1 = (writeFrame 0x7F#7 0xFF#8).b1 := ⟨rfl, rfl⟩

theorem wit_CheckCkComparesTrailer : 1 ≤ 1 ∧ ([0x00#8, 0xFF#8] : List Byte).length = 1 + 1 := by decide

theorem wit_InitConfigures : (ready 9 [status true]).caller < (ready 9 [status true]).callers.length ∧
    (ready 9 [status true]).lock = .free ∧ (ready 9 [status true]).estate = .ready ∧
    ((ready 9 [status true]).answerAt 0).ok = true := by decide

theorem wit_InitConfigures_first :
    (stateIn .uninitialized .unconfigured [status true]).caller <
      (stateIn .uninitialized .unconfigured [status true]).callers.length ∧
    (stateIn .uninitialized .unconfigured [status true]).lock = .free ∧
    (stateIn .uninitialized .unconfigured [status true]).estate = .uninitialized ∧
    ((stateIn .uninitialized .unconfigured [status true]).answerAt 0).ok = true := by decide

theorem wit_InitFailureIsFatal : (ready 9 [status false]).caller < (ready 9 [status false]).callers.length ∧
    (ready 9 [status false]).lock = .free ∧ (ready 9 [status false]).estate = .ready ∧
    ((ready 9 [status false]).answerAt 0).ok = false := by decide

theorem wit_WriteReturns : (ready 7 [transfer 3 []]).caller < (ready 7 [transfer 3 []]).callers.length ∧
    (ready 7 [transfer 3 []]).lock = .free ∧ (ready 7 [transfer 3 []]).estate = .ready ∧
    ((ready 7 [transfer 3 []]).answerAt 0).n = 3 ∧ ((ready 7 [transfer 2 []]).answerAt 0).n ≠ 3 := by decide

theorem wit_ReadCommandShort : (ready 5 [transfer 2 []]).caller < (ready 5 [transfer 2 []]).callers.length ∧
    (ready 5 [transfer 2 []]).lock = .free ∧ (ready 5 [transfer 2 []]).estate = .ready ∧
    ((ready 5 [transfer 2 []]).answerAt 0).n ≠ 3 := by decide

/-- Len 2; counts 2 and 4 beside the 3 that is no short response. -/
theorem wit_ReadShortResponse :
    (ready 0 [transfer 3 [], transfer 2 []]).caller < (ready 0 [transfer 3 [], transfer 2 []]).callers.length ∧
    (ready 0 [transfer 3 [], transfer 2 []]).lock = .free ∧
    (ready 0 [transfer 3 [], transfer 2 []]).estate = .ready ∧
    ((ready 0 [transfer 3 [], transfer 2 []]).answerAt 0).n = 3 ∧
    ((ready 0 [transfer 3 [], transfer 2 []]).answerAt 1).n ≠ (0x02#8 : Byte).toNat + 1 ∧
    ((ready 0 [transfer 3 [], transfer 4 []]).answerAt 1).n ≠ (0x02#8 : Byte).toNat + 1 := by decide

theorem wit_ReadSucceeds : ∃ (s : State) (len : Byte) (payload : List Byte) (trailer : Byte),
    s.caller < s.callers.length ∧ s.lock = .free ∧ s.estate = .ready ∧ (s.answerAt 0).n = 3 ∧
    (s.answerAt 1).n = len.toNat + 1 ∧ s.bytesAt 1 (len.toNat + 1) = payload ++ [trailer] ∧
    trailer = Config.ck payload :=
  ⟨answered (Config.ck [0x12#8, 0x34#8]) [], 0x02#8, [0x12#8, 0x34#8], Config.ck [0x12#8, 0x34#8],
    by decide, rfl, rfl, rfl, rfl, rfl, rfl⟩

theorem wit_ReadMismatchRecovers : ∃ (s : State) (len : Byte) (payload : List Byte) (trailer : Byte),
    s.caller < s.callers.length ∧ s.lock = .free ∧ s.estate = .ready ∧ (s.answerAt 0).n = 3 ∧
    (s.answerAt 1).n = len.toNat + 1 ∧ s.bytesAt 1 (len.toNat + 1) = payload ++ [trailer] ∧
    trailer ≠ Config.ck payload ∧ (s.answerAt 2).ok = true ∧
    (s.params.reconfigOnReinit = true → (s.answerAt 3).ok = true) :=
  ⟨answered (Config.ck [0x12#8, 0x34#8] ^^^ 1#8) [status true, status true], 0x02#8, [0x12#8, 0x34#8],
    Config.ck [0x12#8, 0x34#8] ^^^ 1#8, by decide, rfl, rfl, rfl, rfl, rfl, flipped_ne _, rfl, fun _ => rfl⟩

/-- The same with RECONFIG_ON_REINIT false: OPEN is the recovery's only answer (R18). -/
theorem wit_ReadMismatchRecovers_reconfig_false : ∃ (s : State) (len : Byte) (payload : List Byte) (trailer : Byte),
    s.caller < s.callers.length ∧ s.lock = .free ∧ s.estate = .ready ∧ (s.answerAt 0).n = 3 ∧
    (s.answerAt 1).n = len.toNat + 1 ∧ s.bytesAt 1 (len.toNat + 1) = payload ++ [trailer] ∧
    trailer ≠ Config.ck payload ∧ (s.answerAt 2).ok = true ∧ s.params.reconfigOnReinit = false ∧
    (s.params.reconfigOnReinit = true → (s.answerAt 3).ok = true) :=
  ⟨{ answered (Config.ck [0x12#8, 0x34#8] ^^^ 1#8) [status true] with
      params := { Config.atReset with reconfigOnReinit := false } }, 0x02#8, [0x12#8, 0x34#8],
    Config.ck [0x12#8, 0x34#8] ^^^ 1#8, by decide, rfl, rfl, rfl, rfl, rfl, flipped_ne _, rfl, rfl, nofun⟩

/-- The recovery that fails at OPEN (R16). -/
theorem wit_ReadRecoveryFailureIsFatal : ∃ (s : State) (len : Byte) (payload : List Byte) (trailer : Byte),
    s.caller < s.callers.length ∧ s.lock = .free ∧ s.estate = .ready ∧ (s.answerAt 0).n = 3 ∧
    (s.answerAt 1).n = len.toNat + 1 ∧ s.bytesAt 1 (len.toNat + 1) = payload ++ [trailer] ∧
    trailer ≠ Config.ck payload ∧ (s.answerAt 2).ok = false :=
  ⟨answered (Config.ck [0x12#8, 0x34#8] ^^^ 1#8) [status false], 0x02#8, [0x12#8, 0x34#8],
    Config.ck [0x12#8, 0x34#8] ^^^ 1#8, by decide, rfl, rfl, rfl, rfl, rfl, flipped_ne _, rfl⟩

/-- The recovery that fails at CONFIGURE (R17). -/
theorem wit_ReadRecoveryFailureIsFatal_configure : ∃ (s : State) (len : Byte) (payload : List Byte) (trailer : Byte),
    s.caller < s.callers.length ∧ s.lock = .free ∧ s.estate = .ready ∧ (s.answerAt 0).n = 3 ∧
    (s.answerAt 1).n = len.toNat + 1 ∧ s.bytesAt 1 (len.toNat + 1) = payload ++ [trailer] ∧
    trailer ≠ Config.ck payload ∧ (s.answerAt 2).ok = true ∧ s.params.reconfigOnReinit = true ∧
    (s.answerAt 3).ok = false :=
  ⟨answered (Config.ck [0x12#8, 0x34#8] ^^^ 1#8) [status true, status false], 0x02#8, [0x12#8, 0x34#8],
    Config.ck [0x12#8, 0x34#8] ^^^ 1#8, by decide, rfl, rfl, rfl, rfl, rfl, flipped_ne _, rfl, rfl, rfl⟩

theorem wit_ShutdownTerminates : State.reset.caller < State.reset.callers.length ∧ State.reset.lock = .free ∧
    State.reset.estate = .uninitialized ∧ (ready 0 []).estate = .ready ∧ (ready 0 []).lock = .free ∧
    (terminated []).estate = .terminated ∧ (terminated []).lock = .free := by decide

/-- While another caller's READ is in its recovery, too. -/
theorem wit_SetLoggingWritesFlag :
    let s : State := { reading .recover .recovering .closed [.openBus] [] [] with caller := 1 }
    s.caller < s.callers.length ∧ s.estate ≠ .faulted := by decide

theorem wit_StateRefusals : State.reset.caller < State.reset.callers.length ∧ State.reset.lock = .free ∧
    State.reset.estate = .uninitialized ∧ (terminated []).caller < (terminated []).callers.length ∧
    (terminated []).lock = .free ∧ (terminated []).estate = .terminated := by decide

theorem wit_LockedRequestWaits :
    let s : State := { reading .resp .ready .configured [] [] [] with caller := 1 }
    s.caller < s.callers.length ∧ (Instr.write 0x02#7 0x05#8).takesLock = true ∧ s.lock = .held 0 := by decide

theorem wit_FaultedTakesNoStep : (faulted []).caller < (faulted []).callers.length ∧ Instr.shutdown.isRequest = true ∧
    (faulted []).estate = .faulted := by decide

/-- Both sides: a caller that does not exist, and one that does. -/
theorem wit_ExecStopsOnlyWithoutCaller :
    exec .init { State.reset with caller := 2 } = .fault .noSuchCaller ∧
    exec (.setLogging true) { State.reset with caller := 2 } = .fault .noSuchCaller ∧
    seen (exec .shutdown { State.reset with caller := 1 }) (fun t => resultsOf t 1) = some [.ok] :=
  ⟨rfl, rfl, by decide⟩

theorem wit_StepRunsDecodedInstruction :
    nextMove (granting 0x01000000#32 []) = .serve 0 ∧
    waitingCall (granting 0x01000000#32 []) 0 = some ⟨0x01000000#32, 0x200⟩ ∧
    decodeRequest 0x01000000#32 0x200 = .ok .init ∧
    nextMove (reading .resp .ready .configured [.readBytes 3] [.engine] []) = .engine ∧
    (reading .resp .ready .configured [.readBytes 3] [.engine] []).todo = .readBytes 3 :: [] ∧
    nextMove (moving [.issue 1 0x05000100#32 0]) = .issue 1 0x05000100#32 0 ∧
    mayIssue (moving [.issue 1 0x05000100#32 0]) 1 = true ∧
    decodeRequest 0x05000100#32 0 = .ok (.setLogging true) ∧ (Instr.setLogging true).takesLock = false := by decide

/-- The moves that run no instruction: a locked request is issued, a caller with a pending request issues, and a grant to a
caller with none waiting or a refused one. -/
theorem wit_StepRunsDecodedInstruction_waits :
    let denied : State := { granting 0x02800000#32 [] with
      callers := [{ Caller.atReset Config.atReset with pending := some ⟨0x02800000#32, 0⟩, denied := true }] }
    nextMove (moving [.issue 1 0x01000000#32 0]) = .issue 1 0x01000000#32 0 ∧
    mayIssue (moving [.issue 1 0x01000000#32 0]) 1 = true ∧ decodeRequest 0x01000000#32 0 = .ok .init ∧
    Instr.init.takesLock = true ∧ pendingOf (granting 0x01000000#32 []) 0 ≠ none ∧
    nextMove (moving [.acquire 1]) = .acquire 1 ∧ waitingCall (moving [.acquire 1]) 1 = none ∧
    nextMove denied = .serve 0 ∧ waitingCall denied 0 = none := by decide

theorem wit_PlacedWordIsRun : 0 < State.reset.callers.length ∧ decodeTableWord 32 0x02020500 = some (.write 0x02#7 0x05#8) ∧
    State.reset.req = none ∧ decodeTableWord 24 0x820554 = some (.writeCmd 0x02#7 0x05#8 0x54#8) ∧
    decodeTableWord 8 0x14 = some .closeBus ∧ decodeTableWord 0 0 = some (.response [0x00#8] 0x00#8) ∧
    decodeTableWord 16 0x0201 = some (.response [0x01#8] 0x02#8) := by decide

theorem wit_IssueRefusesBadWord : nextMove (moving [.issue 0 0x03100000#32 0]) = .issue 0 0x03100000#32 0 ∧
    mayIssue (moving [.issue 0 0x03100000#32 0]) 0 = true ∧
    decodeRequest 0x03100000#32 0 = .error .lenRange := by decide

theorem wit_PropagateCopiesFlag : nextMove (moving [.propagate 1]) = .propagate 1 ∧
    1 < (moving [.propagate 1]).callers.length := by decide

/-- Both sides: a free lock in an admitted state, and a held lock. -/
theorem wit_AcquireTakesLock :
    let s : State := { granting 0x03100200#32 [] with moves := [.acquire 0] }
    nextMove s = .acquire 0 ∧ waitingCall s 0 = some ⟨0x03100200#32, 0x200⟩ ∧
    decodeRequest 0x03100200#32 0x200 = .ok (.read 0x10#7 0x02#8 0x200) ∧
    (Instr.read 0x10#7 0x02#8 0x200).takesLock = true ∧ s.lock = .free ∧
    admitRequest (.read 0x10#7 0x02#8 0x200) s.estate = .admitted ∧ { s with lock := .held 1 }.lock = .held 1 := by decide

/-- The other requests that take the lock, INIT, WRITE and SHUTDOWN in READY: the state, whatever the word. -/
theorem wit_AcquireTakesLock_word (word : ReqWord) :
    let s : State := { granting word [] with moves := [.acquire 0] }
    nextMove s = .acquire 0 ∧ waitingCall s 0 = some ⟨word, 0x200⟩ ∧ s.lock = .free ∧ s.estate = .ready :=
  ⟨rfl, rfl, rfl, rfl⟩

theorem wit_AcquireTakesLock_others :
    decodeRequest 0x01000000#32 0x200 = .ok .init ∧ decodeRequest 0x02020500#32 0x200 = .ok (.write 0x02#7 0x05#8) ∧
    decodeRequest 0x04000000#32 0x200 = .ok .shutdown ∧ Instr.init.takesLock = true ∧
    (Instr.write 0x02#7 0x05#8).takesLock = true ∧ Instr.shutdown.takesLock = true ∧
    admitRequest .init .ready = .admitted ∧ admitRequest (.write 0x02#7 0x05#8) .ready = .admitted ∧
    admitRequest .shutdown .ready = .admitted := by decide

/-- The run from reset in which Propagate steps for ever. -/
theorem wit_StayingFlagReachesView : Execution (fun _ => .propagate 1) (fun _ => State.reset) ∧
    FairPropagate (fun _ => .propagate 1) 1 ∧ 1 < State.reset.callers.length ∧ State.reset.trace = false :=
  ⟨fun _ => rfl, fun k => ⟨k, Nat.le_refl k, rfl⟩, by decide, rfl⟩

theorem wit_CurrentViewStaysCurrent : ∃ s t : State, 1 < s.callers.length ∧ viewOf s 1 = s.trace ∧
    step s = .next t ∧ t.trace = s.trace :=
  ⟨moving [.issue 0 0x05000000#32 0], _, by decide, by decide, rfl, rfl⟩

theorem wit_StepKeepsInvariant : ∃ s t : State, BlockInv s ∧ step s = .next t :=
  ⟨reading .recover .recovering .closed [.openBus, .configure, .delay 10000] [.engine] [status true], _,
    wit_inv_recover _ _, rfl⟩

theorem wit_StepNeverStops : BlockInv (granting 0x01000000#32 [status false]) := wit_inv_granting _ _

/-- A step inside RECOVER, and one that leaves it for FAULTED. -/
theorem wit_RecoveringIsRecoverPhase :
    (∃ s t : State, BlockInv s ∧ step s = .next t ∧ t.phase = .recover) ∧
    (∃ s t : State, BlockInv s ∧ step s = .next t ∧ s.phase = .recover ∧ t.phase = .idle) :=
  ⟨⟨reading .recover .recovering .closed [.openBus, .configure, .delay 10000] [.engine] [status true], _,
      wit_inv_recover _ _, rfl, rfl⟩,
    ⟨reading .recover .recovering .closed [.openBus, .configure, .delay 10000] [.engine] [status false], _,
      wit_inv_recover _ _, rfl, rfl, rfl⟩⟩

theorem wit_RecordsOnlyGrow : ∃ s t : State, step s = .next t ∧ s.refused = true :=
  ⟨{ moving [.issue 0 0x00000000#32 0] with refused := true, reasons := [.badOp] }, _, rfl, rfl⟩

theorem wit_FaultedIsFinal : ∃ s t : State, BlockInv s ∧ s.estate = .faulted ∧ step s = .next t :=
  ⟨faulted [.issue 0 0x05000100#32 0], _, wit_inv_faulted _, rfl, rfl⟩

theorem wit_TerminatedIsFinal : ∃ s t : State, BlockInv s ∧ s.estate = .terminated ∧ step s = .next t :=
  ⟨terminated [.issue 0 0x05000100#32 0], _, wit_inv_terminated _, rfl, rfl⟩

theorem wit_EngineStateTransitions : ∃ s t : State, BlockInv s ∧ step s = .next t ∧ t.estate = .faulted :=
  ⟨reading .recover .recovering .closed [.openBus, .configure, .delay 10000] [.engine] [status false], _,
    wit_inv_recover _ _, rfl, rfl⟩

theorem wit_LockIsolatesRequest : ∃ s t : State, s.lock = .held 0 ∧ nextMove s ≠ .engine ∧ step s = .next t :=
  ⟨reading .resp .ready .configured [.readBytes 3] [.issue 1 0x05000000#32 0] [], _, rfl, by decide, rfl⟩

/-- Both sides: in the engine's turn, and where a request is served whole. -/
theorem wit_BusActionsNeedLock :
    (∃ s t : State, BlockInv s ∧ step s = .next t ∧ t.bustrace ≠ s.bustrace ∧ nextMove s = .engine) ∧
    (∃ s t : State, BlockInv s ∧ step s = .next t ∧ t.bustrace ≠ s.bustrace ∧ nextMove s = .serve 0 ∧
      waitingCall s 0 = some ⟨0x01000000#32, 0x200⟩) :=
  ⟨⟨reading .resp .ready .configured [.readBytes 3] [.engine] [transfer 2 []], _, wit_inv_resp _ _, rfl,
      List.cons_ne_nil _ _, rfl⟩,
    ⟨granting 0x01000000#32 [status true], _, wit_inv_granting _ _, rfl, List.cons_ne_nil _ _, rfl, rfl⟩⟩

theorem wit_TransfersNeedConfiguredChannel : ∃ (s t : State) (issued : List BusEvent), BlockInv s ∧ step s = .next t ∧
    t.bustrace = s.bustrace ++ issued ∧ issued.any isTransfer = true :=
  ⟨granting 0x02020500#32 [transfer 3 []], _,
    [.writeBytes [0x82#8, 0x05#8, Config.ck [0x82#8, 0x05#8]] 3], wit_inv_granting _ _, rfl, rfl, rfl⟩

/-- Both sides: in the engine's turn, and where a READ is served whole. -/
theorem wit_CounterWritersAreReads :
    (∃ s t : State, BlockInv s ∧ step s = .next t ∧ t.errcnt ≠ s.errcnt ∧ nextMove s = .engine) ∧
    (∃ s t : State, BlockInv s ∧ step s = .next t ∧ t.errcnt ≠ s.errcnt ∧ nextMove s = .serve 0) :=
  ⟨⟨reading .resp .ready .configured [.readBytes 3] [.engine] [transfer 2 []], _, wit_inv_resp _ _, rfl, by decide, rfl⟩,
    ⟨granting 0x03100200#32 [transfer 3 [], transfer 2 []], _, wit_inv_granting _ _, rfl, by decide, rfl⟩⟩

/-- Both sides: an admitted request, and one that waits. -/
theorem wit_AtomicRequestIsExact : (Instr.read 0x10#7 0x02#8 0x200).takesLock = true ∧
    (ready 0 []).caller < (ready 0 []).callers.length ∧ (ready 0 []).lock = .free ∧
    admitRequest (.read 0x10#7 0x02#8 0x200) (ready 0 []).estate = .admitted ∧
    ¬ ((terminated []).lock = .free ∧ admitRequest .init (terminated []).estate = .admitted) := by decide

theorem wit_EngineFinishesRequest :
    BlockInv (reading .resp .ready .configured [.readBytes 3] [] []) ∧
    (reading .resp .ready .configured [.readBytes 3] [] []).req =
      some { op := .read, addr := 0x10#8, data := 0x02#8, caller := 0, out := 0x200 } := ⟨wit_inv_resp _ _, rfl⟩

/-- A READ in RESP whose short response comes first, and the state after it, in which further turns change nothing. -/
def turning (k : Nat) : State :=
  match k with
  | 0 => reading .resp .ready .configured [.readBytes 3] [] [transfer 2 []]
  | _ + 1 => release 0 .readError (throttle 0 .readError (countError (busReadBytes 3
      (setTodo [] (reading .resp .ready .configured [.readBytes 3] [] [transfer 2 []]))).2))

theorem wit_HeldLockIsReleased : Execution (fun _ => .engine) turning ∧ FairEngine (fun _ => .engine) ∧
    BlockInv (turning 0) ∧ (turning 0).lock = .held 0 :=
  ⟨fun k => match k with
      | 0 => rfl
      | _ + 1 => rfl,
    fun k => ⟨k, Nat.le_refl k, rfl⟩, wit_inv_resp _ _, rfl⟩

/-- SHUTDOWN of caller 0 waits in a machine with LOCK_FAIR, is served at the first move, and no one waits after it. -/
def serving (k : Nat) : State :=
  let waiting : State := { granting 0x04000000#32 [] with
    params := { Config.atReset with lockFair := true }, moves := [] }
  match k with
  | 0 => waiting
  | _ + 1 => shutdownBody 0 (acquireLock 0 .shutdown waiting)

/-- The grant first, then turns of the engine for ever. -/
def servingMoves (k : Nat) : Move :=
  match k with
  | 0 => .serve 0
  | _ + 1 => .engine

theorem wit_HeldLockIsReleased_granted : Execution servingMoves serving ∧ FairLock servingMoves serving 0 ∧
    BlockInv (serving 0) ∧ (serving 0).params.lockFair = true ∧ WaitsForLock (serving 0) 0 :=
  ⟨fun k => match k with
      | 0 => rfl
      | _ + 1 => rfl,
    fun _ k h => absurd (h (k + 1) (Nat.le_succ k)) (by rintro ⟨_, _, _, hw, _⟩; cases hw),
    ⟨⟨rfl, rfl, rfl, nofun⟩, fun _ => rfl, ⟨nofun, fun h => absurd rfl h⟩, Nat.two_pow_pos 32, rfl,
      ⟨nofun, fun h => absurd rfl h⟩, rfl, List.length_replicate⟩,
    rfl, ⟨nofun, ⟨0x04000000#32, 0x200⟩, .shutdown, rfl, rfl, rfl⟩⟩

theorem wit_LoggingNeverInterferes : withoutLogging (stateIn .ready .configured []) = withoutLogging (ready 0 []) ∧
    stateIn .ready .configured [] ≠ ready 0 [] := ⟨rfl, by decide⟩

theorem wit_ThrottleOverFailures : ∃ (s : State) (len : Byte) (payload : List Byte) (trailer : Byte),
    s.caller < s.callers.length ∧ s.lock = .free ∧ s.estate = .ready ∧ s.params.reconfigOnReinit = true ∧
    s.errcnt = 0 ∧ 150 < 2 ^ s.params.errcntW ∧ viewOf s s.caller = true ∧ payload.length = len.toNat ∧
    trailer ≠ Config.ck payload ∧
    s.answers = (List.replicate 150 [{ ok := true, n := 3, bytes := [] },
      { ok := true, n := len.toNat + 1, bytes := payload ++ [trailer] },
      { ok := true, n := 0, bytes := [] }, { ok := true, n := 0, bytes := [] }]).flatten ++ [] :=
  ⟨ready 0 ((List.replicate 150 [transfer 3 [], transfer 2 [0x00#8, Config.ck [0x00#8] ^^^ 1#8], status true,
      status true]).flatten ++ []), 0x01#8, [0x00#8], Config.ck [0x00#8] ^^^ 1#8, by decide, rfl, rfl, rfl, rfl,
    by decide, rfl, rfl, flipped_ne _, rfl⟩

theorem wit_CounterCountsFailedReads : ∃ (i : Instr) (s t : State), i.isRequest = true ∧ exec i s = .next t ∧
    s.errcnt = failedReads (resultsOf s s.caller) % 2 ^ s.params.errcntW :=
  ⟨.read 0x10#7 0x02#8 0x200, ready 0 [transfer 3 [], transfer 2 []], _, rfl, rfl, by decide⟩

theorem wit_OneRecoveryPerMismatch : ∃ (s t : State) (i : Instr), s.caller < s.callers.length ∧ s.lock = .free ∧
    s.estate = .ready ∧ i.isRequest = true ∧ exec i s = .next t :=
  ⟨ready 0 [transfer 3 [], transfer 2 []], _, .read 0x10#7 0x02#8 0x200, by decide, rfl, rfl, rfl, rfl⟩

/-- A READ with a mismatch. -/
theorem wit_OneRecoveryPerMismatch_mismatch : ∃ (s t : State) (len : Byte), s.caller < s.callers.length ∧
    s.lock = .free ∧ s.estate = .ready ∧ exec (.read 0x10#7 len 0x200) s = .next t ∧ (s.answerAt 0).n = 3 ∧
    (s.answerAt 1).n = len.toNat + 1 ∧
    Config.ck ((s.bytesAt 1 (len.toNat + 1)).take len.toNat) ≠ (s.bytesAt 1 (len.toNat + 1)).getD len.toNat 0 :=
  ⟨answered (Config.ck [0x12#8, 0x34#8] ^^^ 1#8) [status true, status true], _, 0x02#8, by decide, rfl, rfl, rfl, rfl,
    rfl, (flipped_ne (Config.ck [0x12#8, 0x34#8])).symm⟩

/-- A request that is no READ. -/
theorem wit_OneRecoveryPerMismatch_other : ∃ s t : State, s.caller < s.callers.length ∧ s.lock = .free ∧
    s.estate = .ready ∧ Instr.init.isRequest = true ∧ exec .init s = .next t ∧
    (∀ addr len out, Instr.init ≠ .read addr len out) :=
  ⟨ready 0 [status true], _, by decide, rfl, rfl, rfl, rfl, fun _ _ _ => nofun⟩

theorem wit_SettleDelayBetweenCommandAndResponse : ∃ s t : State, s.caller < s.callers.length ∧ s.lock = .free ∧
    s.estate = .ready ∧ (s.answerAt 0).n = 3 ∧ exec (.read 0x10#7 0x02#8 0x200) s = .next t :=
  ⟨ready 0 [transfer 3 [], transfer 2 []], _, by decide, rfl, rfl, rfl, rfl⟩

end Sys2Proof.Tests
end

section
/-! SUPPORT. What one step is for each move of an agent (spec/00_scope.md R11), and what an issue, a grant and an engine's
turn do in each of their cases (spec/42_engine_ops.md R150). -/

namespace Sys2Proof.Proofs

open Sys2Proof.Machine

/-! ### The step, move by move -/

theorem step_eq_issueRequest {s : State} {c : Nat} {word : ReqWord} {out : Nat} (h : nextMove s = .issue c word out) :
    step s = issueRequest c word out (moveTaken s) := by
  simp [step, h, makeMove]

theorem step_eq_serveCaller {s : State} {c : Nat} (h : nextMove s = .serve c) :
    step s = serveCaller c (moveTaken s) := by
  simp [step, h, makeMove]

theorem step_eq_acquireCaller {s : State} {c : Nat} (h : nextMove s = .acquire c) :
    step s = acquireCaller c (moveTaken s) := by
  simp [step, h, makeMove]

theorem step_eq_engineTurn {s : State} (h : nextMove s = .engine) : step s = engineTurn (moveTaken s) := by
  simp [step, h, makeMove]

/-! ### Taking a move (beside `Laws.moveTaken_waitingCall`) -/

@[simp] theorem moveTaken_mayIssue (s : State) (c : Nat) : mayIssue (moveTaken s) c = mayIssue s c := rfl

/-! ### An issue -/

/-- R46: a caller with a pending request may not issue. -/
theorem mayIssue_eq_false_of_pending {s : State} {c : Nat} (h : pendingOf s c ≠ none) : mayIssue s c = false := by
  unfold pendingOf at h
  unfold mayIssue
  cases hc : s.callers[c]? with
  | none => rfl
  | some k => simpa [hc, Option.isSome_iff_ne_none] using h

/-- A caller that may not issue leaves the state as it is (log entry 11). -/
theorem issueRequest_of_not_mayIssue {s : State} {c : Nat} (hm : mayIssue s c = false) (word : ReqWord) (out : Nat) :
    issueRequest c word out s = .next s := by
  simp [issueRequest, hm]

section Decoded

variable {s : State} {c : Nat} {word : ReqWord} {out : Nat} {i : Instr}

/-- R150 (3): a well-formed request that takes the lock is left pending. -/
theorem issueRequest_of_takesLock (hm : mayIssue s c = true) (hd : decodeRequest word out = .ok i)
    (hl : i.takesLock = true) :
    issueRequest c word out s = .next (setPending c { word := word, out := out } s) := by
  simp [issueRequest, hm, hd, hl]

/-- R150 (3): a well-formed request without the lock runs at once. -/
theorem issueRequest_of_not_takesLock (hm : mayIssue s c = true) (hd : decodeRequest word out = .ok i)
    (hl : i.takesLock = false) :
    issueRequest c word out s = exec i (selectCaller c (setPending c { word := word, out := out } s)) := by
  simp [issueRequest, hm, hd, hl]

end Decoded

/-! ### A grant, by `serve` or by `acquire` -/

section Grant

variable {s : State} {c : Nat} (run : Instr → State → Host.Outcome State Fault Refusal)

/-- A grant to a caller with no waiting request leaves the state as it is (log entry 11). -/
theorem withWaiting_of_none (hw : waitingCall s c = none) : withWaiting c run s = .next s := by
  simp [withWaiting, hw]

/-- A grant runs the waiting request as it decodes, for its caller. -/
theorem withWaiting_of_decoded {call : Call} {i : Instr} (hw : waitingCall s c = some call)
    (hd : decodeRequest call.word call.out = .ok i) : withWaiting c run s = run i (selectCaller c s) := by
  simp [withWaiting, hw, hd]

end Grant

/-! ### The engine's turn -/

/-- The engine's turn with an action to issue runs that action, and the issuing rule acts on its answer. -/
theorem engineTurn_of_todo {s : State} {i : Instr} {rest : List Instr} (h : s.todo = i :: rest) :
    engineTurn s = continueWith (exec i (setTodo rest s)) (afterAction i) := by
  simp [engineTurn, h]

end Sys2Proof.Proofs
end

section
/-! PROOF. The step runs the decoded instruction (O33). -/

namespace Sys2Proof.Proofs

open Sys2Proof.Machine Sys2Proof.Laws

/-- Settles O33: the move fixes which agent acts, and that agent's rule gives each clause. -/
theorem stepRunsDecodedInstruction : Obligations.StepRunsDecodedInstruction := by
  refine ⟨?serve, ?engine, ?issueUnlocked, ?issueLocked, ?issuePending, ?grantNone⟩
  case serve =>
    intro s c call i hmove hw hd
    rw [step_eq_serveCaller hmove]
    rw [← moveTaken_waitingCall] at hw
    exact withWaiting_of_decoded exec hw hd
  case engine =>
    intro s i rest hmove htodo
    rw [step_eq_engineTurn hmove]
    rw [← moveTaken_todo] at htodo
    exact engineTurn_of_todo htodo
  case issueUnlocked =>
    intro s c word out i hmove hm hd hl
    rw [step_eq_issueRequest hmove]
    rw [← moveTaken_mayIssue] at hm
    exact issueRequest_of_not_takesLock hm hd hl
  case issueLocked =>
    intro s c word out i hmove hm hd hl
    rw [step_eq_issueRequest hmove]
    rw [← moveTaken_mayIssue] at hm
    exact issueRequest_of_takesLock hm hd hl
  case issuePending =>
    intro s c word out hmove hp
    rw [step_eq_issueRequest hmove]
    rw [← moveTaken_pendingOf] at hp
    exact issueRequest_of_not_mayIssue (mayIssue_eq_false_of_pending hp) word out
  case grantNone =>
    rintro s c (hmove | hmove) hw <;> rw [← moveTaken_waitingCall] at hw
    · rw [step_eq_serveCaller hmove]
      exact withWaiting_of_none exec hw
    · rw [step_eq_acquireCaller hmove]
      exact withWaiting_of_none beginRequest hw

end Sys2Proof.Proofs
end

section
/-! SUPPORT. A whole request and the engine's turn, each said once: what `exec` runs for a locked request and for a
frame or an action, and what the engine's turn is in each phase (spec/10_state.md R32). -/

namespace Sys2Proof.Proofs

open Sys2Proof.Machine Sys2Proof.Laws

/-! ### Whole locked requests -/

/-- What a locked request does between acquire and release, carried out whole (spec/10_state.md R50). -/
def requestBody (i : Instr) : Nat → State → State :=
  match i with
  | .init => initBody
  | .write addr value => writeBody addr value
  | .read addr len out => readBody addr len out
  | .shutdown => shutdownBody
  | .setLogging _ => fun _ s => s
  | .writeCmd _ _ _ => fun _ s => s
  | .readCmd _ _ _ => fun _ s => s
  | .response _ _ => fun _ s => s
  | .configure => fun _ s => s
  | .writeBytes => fun _ s => s
  | .delay _ => fun _ s => s
  | .readBytes _ => fun _ s => s
  | .closeBus => fun _ s => s
  | .openBus => fun _ s => s

theorem exec_of_takesLock {i : Instr} (hl : i.takesLock = true) (s : State) :
    exec i s = lockedRequest i (requestBody i) s := by
  cases i <;> cases hl <;> rfl

theorem beginRequest_of_takesLock {i : Instr} (hl : i.takesLock = true) (s : State) :
    beginRequest i s = lockedRequest i (fun _ t => setTodo (openingActions i) t) s := by
  simp [beginRequest, hl]

/-- Two ways to carry on a locked request agree where it is not carried on. -/
theorem lockedRequest_congr {i : Instr} {s : State} (h : ¬ (s.lock = .free ∧ admitRequest i s.estate = .admitted))
    (f g : Nat → State → State) : lockedRequest i f s = lockedRequest i g s := by
  unfold lockedRequest
  cases hl : s.lock with
  | held c => rfl
  | free =>
    cases ha : admitRequest i s.estate with
    | admitted => exact absurd ⟨hl, ha⟩ h
    | refused r => rfl
    | noStep => rfl

/-! ### Frames and actions -/

/-- The state that a frame or an action leaves; a request is not meant. -/
def actionEffect (i : Instr) (s : State) : State :=
  match i with
  | .writeCmd addr value _ => setCmd (writeFrame addr value) s
  | .readCmd addr len _ => setCmd (readFrame addr len) s
  | .response payload trailer => validateResponse payload trailer s
  | .configure => (busConfigure s).2
  | .writeBytes => (busWriteBytes s).2
  | .delay us => busDelay us s
  | .readBytes k => (busReadBytes k s).2
  | .closeBus => busClose s
  | .openBus => (busOpen s).2
  | .init => s
  | .write _ _ => s
  | .read _ _ _ => s
  | .shutdown => s
  | .setLogging _ => s

theorem exec_of_action {i : Instr} (hi : i.isRequest = false) (s : State) :
    exec i s = .next (actionEffect i s) := by
  cases i <;> cases hi <;> rfl

@[simp] theorem actionEffect_req (i : Instr) (s : State) : (actionEffect i s).req = s.req := by
  cases i <;> rfl

@[simp] theorem actionEffect_phase (i : Instr) (s : State) : (actionEffect i s).phase = s.phase := by
  cases i <;> rfl

@[simp] theorem actionEffect_lock (i : Instr) (s : State) : (actionEffect i s).lock = s.lock := by
  cases i <;> rfl

@[simp] theorem actionEffect_callers (i : Instr) (s : State) : (actionEffect i s).callers = s.callers := by
  cases i <;> rfl

@[simp] theorem actionEffect_errcnt (i : Instr) (s : State) : (actionEffect i s).errcnt = s.errcnt := by
  cases i <;> rfl

/-! ### The actions still to be issued: no operation reads them, and a release leaves none -/

@[simp] theorem setTodo_setTodo (k l : List Instr) (s : State) : setTodo k (setTodo l s) = setTodo k s := rfl
@[simp] theorem setPhase_setTodo (p : Phase) (l : List Instr) (s : State) :
    setPhase p (setTodo l s) = setTodo l (setPhase p s) := rfl
@[simp] theorem setEstate_setTodo (e : EngineState) (l : List Instr) (s : State) :
    setEstate e (setTodo l s) = setTodo l (setEstate e s) := rfl
@[simp] theorem countError_setTodo (l : List Instr) (s : State) :
    countError (setTodo l s) = setTodo l (countError s) := rfl
@[simp] theorem throttle_setTodo (c : Nat) (kind : DiagKind) (l : List Instr) (s : State) :
    throttle c kind (setTodo l s) = setTodo l (throttle c kind s) := rfl
@[simp] theorem release_setTodo (c : Nat) (x : Result) (l : List Instr) (s : State) :
    release c x (setTodo l s) = release c x s := rfl
@[simp] theorem raiseFault_setTodo (c : Nat) (e : FatalReason) (l : List Instr) (s : State) :
    raiseFault c e (setTodo l s) = raiseFault c e s := rfl
@[simp] theorem commitRead_setTodo (len : Byte) (out c : Nat) (l : List Instr) (s : State) :
    commitRead len out c (setTodo l s) = commitRead len out c s := rfl
@[simp] theorem shutdownBody_setTodo (c : Nat) (l : List Instr) (s : State) :
    shutdownBody c (setTodo l s) = shutdownBody c s := rfl
@[simp] theorem lastStatus_setTodo (l : List Instr) (s : State) : lastStatus (setTodo l s) = lastStatus s := rfl
@[simp] theorem lastWritten_setTodo (l : List Instr) (s : State) : lastWritten (setTodo l s) = lastWritten s := rfl
@[simp] theorem actionEffect_setTodo (i : Instr) (l : List Instr) (s : State) :
    actionEffect i (setTodo l s) = setTodo l (actionEffect i s) := by
  cases i <;> rfl

/-! ### The answer of the action issued last -/

@[simp] theorem lastStatus_busConfigure (s : State) : lastStatus (busConfigure s).2 = (s.answerAt 0).ok := by
  simp [lastStatus]

@[simp] theorem lastStatus_busOpen (s : State) : lastStatus (busOpen s).2 = (s.answerAt 0).ok := by
  simp [lastStatus]

@[simp] theorem lastStatus_busClose (s : State) : lastStatus (busClose s) = true := by
  simp [lastStatus]

@[simp] theorem lastStatus_busDelay (us : Nat) (s : State) : lastStatus (busDelay us s) = true := by
  simp [lastStatus]

@[simp] theorem lastWritten_busWriteBytes (s : State) : lastWritten (busWriteBytes s).2 = (s.answerAt 0).n := by
  simp [lastWritten]

/-! ### What follows an action of the recovery -/

theorem afterRecovery_failed {r : Request} {s : State} (h : lastStatus s = false) :
    afterRecovery r s = raiseFault r.caller .resetError s := by
  simp [afterRecovery, h]

theorem afterRecovery_more {r : Request} {s : State} (h : lastStatus s = true) (ht : s.todo ≠ []) :
    afterRecovery r s = s := by
  simp [afterRecovery, h, ht]

theorem afterRecovery_done {r : Request} {s : State} (h : lastStatus s = true) (ht : s.todo = []) :
    afterRecovery r s = release r.caller .checksumError (setEstate .ready s) := by
  simp [afterRecovery, h, ht]

/-! ### What follows the command frame of a WRITE or READ -/

theorem afterCommand_read {r : Request} {s : State} (hop : r.op = .read) (h : lastWritten s = Config.cmdLen) :
    afterCommand r s = setTodo [.delay Config.tSettleUs] (setPhase .settle s) := by
  simp [afterCommand, h, hop]

theorem afterCommand_write {r : Request} {s : State} (hop : r.op = .write) (h : lastWritten s = Config.cmdLen) :
    afterCommand r s = release r.caller .ok s := by
  simp [afterCommand, h, hop]

theorem afterCommand_short {r : Request} {s : State} (h : lastWritten s ≠ Config.cmdLen) :
    afterCommand r s = release r.caller .writeError s := by
  simp [afterCommand, h]

/-! ### What follows the verdict on a response -/

theorem afterVerdict_valid {s : State} (h : s.verdict = some .valid) (r : Request) :
    afterVerdict r s = setTodo [] (setPhase .commit s) := if_pos h

theorem afterVerdict_mismatch {s : State} (h : s.verdict ≠ some .valid) (r : Request) :
    afterVerdict r s = setTodo (recoveryActions s.params)
      (setEstate .recovering (setPhase .recover (throttle r.caller .checksumError (countError s)))) := if_neg h

/-! ### The frame that CMD builds -/

theorem frameAction_isRequest (r : Request) : (frameAction r).isRequest = false := by
  unfold frameAction
  cases r.op <;> rfl

theorem frameAction_ne_writeBytes (r : Request) : frameAction r ≠ .writeBytes := by
  unfold frameAction
  cases r.op <;> exact nofun

theorem actionEffect_frameAction (r : Request) (s : State) : actionEffect (frameAction r) s = setCmd (frameOf r) s := by
  unfold frameAction frameOf
  cases r.op <;> rfl

/-! ### The engine's turn in each phase -/

theorem afterAction_of_no_request {s : State} (hr : s.req = none) (i : Instr) : afterAction i s = s := by
  simp [afterAction, hr]

/-- With nothing in progress the engine has nothing to do. -/
theorem engineTurn_of_idle {s : State} (hr : s.req = none) (ht : s.todo = []) : engineTurn s = .next s := by
  simp [engineTurn, ht, silentPhase, hr]

/-- The engine's turn in the form of the equations below. -/
theorem engineTurn_eq_setTodo {s : State} {l : List Instr} (ht : s.todo = l) :
    engineTurn s = engineTurn (setTodo l s) := by
  rw [← ht]
  rfl

/-- The engine's turn with a frame or an action to issue. -/
theorem engineTurn_of_action (i : Instr) (hi : i.isRequest = false) (rest : List Instr) (s : State) :
    engineTurn (setTodo (i :: rest) s) = .next (afterAction i (setTodo rest (actionEffect i s))) := by
  rw [engineTurn_of_todo (setTodo_todo _ _), exec_of_action hi, setTodo_setTodo, actionEffect_setTodo]
  rfl

section Turn

variable {s : State} {r : Request} {rest : List Instr} (hr : s.req = some r)
include hr

theorem engineTurn_config (hp : s.phase = .config) :
    engineTurn (setTodo (.configure :: rest) s) = .next (afterConfigure r (setTodo rest (busConfigure s).2)) := by
  rw [engineTurn_of_action .configure rfl]
  simp [actionEffect, afterAction, hr, hp]

theorem engineTurn_frame (hp : s.phase = .cmd) :
    engineTurn (setTodo (frameAction r :: rest) s) = .next (setTodo rest (setCmd (frameOf r) s)) := by
  rw [engineTurn_of_action _ (frameAction_isRequest r), actionEffect_frameAction]
  simp [afterAction, hr, hp, frameAction_ne_writeBytes r]

theorem engineTurn_command (hp : s.phase = .cmd) :
    engineTurn (setTodo (.writeBytes :: rest) s) = .next (afterCommand r (setTodo rest (busWriteBytes s).2)) := by
  rw [engineTurn_of_action .writeBytes rfl]
  simp [actionEffect, afterAction, hr, hp]

theorem engineTurn_settle {us : Nat} (hp : s.phase = .settle) :
    engineTurn (setTodo (.delay us :: rest) s) = .next (afterSettle r (setTodo rest (busDelay us s))) := by
  rw [engineTurn_of_action (.delay us) rfl]
  simp [actionEffect, afterAction, hr, hp]

theorem engineTurn_resp {k : Nat} (hp : s.phase = .resp) :
    engineTurn (setTodo (.readBytes k :: rest) s) = .next (afterResponse r (setTodo rest (busReadBytes k s).2)) := by
  rw [engineTurn_of_action (.readBytes k) rfl]
  simp [actionEffect, afterAction, hr, hp]

theorem engineTurn_check {payload : List Byte} {trailer : Byte} (hp : s.phase = .check) :
    engineTurn (setTodo (.response payload trailer :: rest) s) =
      .next (afterVerdict r (setTodo rest (validateResponse payload trailer s))) := by
  rw [engineTurn_of_action (.response payload trailer) rfl]
  simp [actionEffect, afterAction, hr, hp]

theorem engineTurn_recover {i : Instr} (hi : i.isRequest = false) (hp : s.phase = .recover) :
    engineTurn (setTodo (i :: rest) s) = .next (afterRecovery r (setTodo rest (actionEffect i s))) := by
  simp [engineTurn_of_action i hi, afterAction, hr, hp]

theorem engineTurn_commit (hp : s.phase = .commit) :
    engineTurn (setTodo [] s) = .next (commitRead r.data r.out r.caller s) := by
  simp [engineTurn, silentPhase, hr, hp]

theorem engineTurn_final (hp : s.phase = .final) :
    engineTurn (setTodo [] s) = .next (shutdownBody r.caller s) := by
  simp [engineTurn, silentPhase, hr, hp]

end Turn

end Sys2Proof.Proofs
end

section
/-! PROOF. A whole request is exactly its phases one by one (O53): from each phase on, the engine's turns reach the
state that the rest of the whole request gives, proved from READ's last phases back to the first. -/

namespace Sys2Proof.Proofs

open Sys2Proof.Machine Sys2Proof.Laws

/-! ### Turns of the engine -/

/-- At most `n` turns of the engine, with no other move between them, lead from `s` to `t`. -/
def EngineReaches (n : Nat) (s t : State) : Prop := ∃ k, k ≤ n ∧ engineRun k s = .next t

theorem EngineReaches.refl (n : Nat) (s : State) : EngineReaches n s s := ⟨0, by omega, rfl⟩

theorem EngineReaches.turn {n : Nat} {s u t : State} (h : engineTurn s = .next u) (hu : EngineReaches n u t) :
    EngineReaches (n + 1) s t := by
  obtain ⟨k, hk, hrun⟩ := hu
  exact ⟨k + 1, by omega, by simp [engineRun, h, hrun]⟩

theorem EngineReaches.mono {m n : Nat} {s t : State} (h : EngineReaches m s t) (hmn : m ≤ n) : EngineReaches n s t := by
  obtain ⟨k, hk, hrun⟩ := h
  exact ⟨k, by omega, hrun⟩

/-! ### The rest of a READ, from RESP and from RECOVER -/

/-- The rest of a READ in RECOVER: REINITIALIZE and what its outcome brings (R140, R162). -/
def recoverRest (c : Nat) (s : State) : State :=
  if (reinitialize s).1 then release c .checksumError (setEstate .ready (reinitialize s).2)
  else raiseFault c .resetError (reinitialize s).2

theorem recoverRead_eq_recoverRest (c : Nat) (s : State) :
    recoverRead c s =
      recoverRest c (setEstate .recovering (setPhase .recover (throttle c .checksumError (countError s)))) := rfl

/-- The rest of a READ in RESP (R162, R165). -/
def respRest (len : Byte) (out c : Nat) (s : State) : State :=
  if (s.answerAt 0).n = responseLength len then
    checkRead len out c (setPhase .check (busReadBytes (responseLength len) s).2)
  else release c .readError (throttle c .readError (countError (busReadBytes (responseLength len) s).2))

theorem readBody_eq_respRest (addr : RegAddr) (len : Byte) (out c : Nat) (s : State) :
    readBody addr len out c s =
      if (s.answerAt 0).n = Config.cmdLen then
        respRest len out c (setPhase .resp (busDelay Config.tSettleUs (setPhase .settle
          (busWriteBytes (setCmd (readFrame addr len) s)).2)))
      else release c .writeError (busWriteBytes (setCmd (readFrame addr len) s)).2 := rfl

theorem recoveryActions_eq (p : Params) :
    recoveryActions p =
      .closeBus :: .delay Config.tReinitPreUs :: .openBus :: (recoveryActions p).drop 3 := rfl

theorem drop_recoveryActions_of_not_reconfig {p : Params} (h : p.reconfigOnReinit = false) :
    (recoveryActions p).drop 3 = [.delay Config.tReinitPostUs] := by
  simp [recoveryActions, h]

theorem drop_recoveryActions_of_reconfig {p : Params} (h : p.reconfigOnReinit = true) :
    (recoveryActions p).drop 3 = [.configure, .delay Config.tReinitPostUs] := by
  simp [recoveryActions, h]

/-- REINITIALIZE fails at its OPEN. -/
theorem recoverRest_of_open_failed {s : State} (ho : (s.answerAt 0).ok = false) (c : Nat) :
    recoverRest c s = raiseFault c .resetError (busOpen (busDelay Config.tReinitPreUs (busClose s))).2 := by
  simp [recoverRest, reinitialize, ho]

/-- REINITIALIZE after its OPEN, where it does not configure again. -/
theorem recoverRest_of_opened {s : State} (ho : (s.answerAt 0).ok = true) (hp : s.params.reconfigOnReinit = false)
    (c : Nat) :
    recoverRest c s = release c .checksumError (setEstate .ready (busDelay Config.tReinitPostUs
      (busOpen (busDelay Config.tReinitPreUs (busClose s))).2)) := by
  simp [recoverRest, reinitialize, ho, hp]

/-- REINITIALIZE fails at its CONFIGURE. -/
theorem recoverRest_of_configure_failed {s : State} (ho : (s.answerAt 0).ok = true)
    (hp : s.params.reconfigOnReinit = true) (hc : (s.answerAt 1).ok = false) (c : Nat) :
    recoverRest c s = raiseFault c .resetError
      (busConfigure (busOpen (busDelay Config.tReinitPreUs (busClose s))).2).2 := by
  simp [recoverRest, reinitialize, ho, hp, hc]

/-- REINITIALIZE completes with its CONFIGURE. -/
theorem recoverRest_of_configured {s : State} (ho : (s.answerAt 0).ok = true)
    (hp : s.params.reconfigOnReinit = true) (hc : (s.answerAt 1).ok = true) (c : Nat) :
    recoverRest c s = release c .checksumError (setEstate .ready (busDelay Config.tReinitPostUs
      (busConfigure (busOpen (busDelay Config.tReinitPreUs (busClose s))).2).2)) := by
  simp [recoverRest, reinitialize, ho, hp, hc]

/-! ### What one turn leads to -/

section Phases

variable {s : State} {r : Request} (hr : s.req = some r)
include hr

/-- A turn in RECOVER that is not the last and is answered ok goes on with the next action. -/
theorem engineTurn_recover_more {i j : Instr} {l : List Instr} (hp : s.phase = .recover) (hi : i.isRequest = false)
    (hok : lastStatus (actionEffect i s) = true) :
    engineTurn (setTodo (i :: j :: l) s) = .next (setTodo (j :: l) (actionEffect i s)) := by
  rw [engineTurn_recover hr hi hp, afterRecovery_more (by simpa) (by simp)]

/-- A turn in RECOVER that is answered fail is the fatal RESET_ERROR. -/
theorem engineTurn_recover_failed {i : Instr} {l : List Instr} (hp : s.phase = .recover) (hi : i.isRequest = false)
    (hok : lastStatus (actionEffect i s) = false) :
    engineTurn (setTodo (i :: l) s) = .next (raiseFault r.caller .resetError (actionEffect i s)) := by
  rw [engineTurn_recover hr hi hp, afterRecovery_failed (by simpa)]
  simp

/-- The last turn in RECOVER, answered ok, ends the READ with CHECKSUM_ERROR. -/
theorem engineTurn_recover_done {i : Instr} (hp : s.phase = .recover) (hi : i.isRequest = false)
    (hok : lastStatus (actionEffect i s) = true) :
    engineTurn (setTodo [i] s) =
      .next (release r.caller .checksumError (setEstate .ready (actionEffect i s))) := by
  rw [engineTurn_recover hr hi hp, afterRecovery_done (by simpa) (by simp)]
  simp

theorem engineTurn_recover_close {j : Instr} {l : List Instr} (hp : s.phase = .recover) :
    engineTurn (setTodo (.closeBus :: j :: l) s) = .next (setTodo (j :: l) (busClose s)) :=
  engineTurn_recover_more (i := .closeBus) hr hp rfl (lastStatus_busClose s)

theorem engineTurn_recover_delay {us : Nat} {j : Instr} {l : List Instr} (hp : s.phase = .recover) :
    engineTurn (setTodo (.delay us :: j :: l) s) = .next (setTodo (j :: l) (busDelay us s)) :=
  engineTurn_recover_more (i := .delay us) hr hp rfl (lastStatus_busDelay us s)

theorem engineTurn_recover_lastDelay {us : Nat} (hp : s.phase = .recover) :
    engineTurn (setTodo [.delay us] s) =
      .next (release r.caller .checksumError (setEstate .ready (busDelay us s))) :=
  engineTurn_recover_done (i := .delay us) hr hp rfl (lastStatus_busDelay us s)

/-! ### The phases, from the last to the first -/

/-- The turns of a recovery follow REINITIALIZE: five where it configures again, else four. -/
theorem engineReaches_recoverRest (hp : s.phase = .recover) :
    EngineReaches 5 (setTodo (recoveryActions s.params) s) (recoverRest r.caller s) := by
  rw [recoveryActions_eq]
  refine .turn (engineTurn_recover_close hr hp) ?_
  refine .turn (engineTurn_recover_delay (r := r) (by simpa) (by simpa)) ?_
  cases ho : (s.answerAt 0).ok with
  | false =>
    rw [recoverRest_of_open_failed ho]
    exact .turn (engineTurn_recover_failed (r := r) (by simpa) (by simpa) rfl ((lastStatus_busOpen _).trans ho))
      (.refl _ _)
  | true =>
    cases hreconf : s.params.reconfigOnReinit with
    | false =>
      rw [recoverRest_of_opened ho hreconf, drop_recoveryActions_of_not_reconfig hreconf]
      refine .turn (engineTurn_recover_more (r := r) (by simpa) (by simpa) rfl ((lastStatus_busOpen _).trans ho)) ?_
      exact .turn (engineTurn_recover_lastDelay (r := r) (by simpa) (by simpa)) (.refl _ _)
    | true =>
      rw [drop_recoveryActions_of_reconfig hreconf]
      refine .turn (engineTurn_recover_more (r := r) (by simpa) (by simpa) rfl ((lastStatus_busOpen _).trans ho)) ?_
      have hstatus : lastStatus (busConfigure (busOpen (busDelay Config.tReinitPreUs (busClose s))).2).2 =
          (s.answerAt 1).ok := by simp
      cases hc : (s.answerAt 1).ok with
      | false =>
        rw [recoverRest_of_configure_failed ho hreconf hc]
        exact .turn (engineTurn_recover_failed (r := r) (by simpa) (by simpa) rfl (hstatus.trans hc)) (.refl _ _)
      | true =>
        rw [recoverRest_of_configured ho hreconf hc]
        refine .turn (engineTurn_recover_more (r := r) (by simpa) (by simpa) rfl (hstatus.trans hc)) ?_
        exact .turn (engineTurn_recover_lastDelay (r := r) (by simpa) (by simpa)) (.refl _ _)

theorem engineReaches_checkRead (hp : s.phase = .check) :
    EngineReaches 6 (setTodo [.response (payloadOf s.resp r.data) (trailerOf s.resp r.data)] s)
      (checkRead r.data r.out r.caller s) := by
  refine .turn (engineTurn_check hr hp) ?_
  by_cases hv : trailerOf s.resp r.data = Config.ck (payloadOf s.resp r.data)
  · rw [checkRead_valid _ _ _ _ hv, afterVerdict_valid (by simp [verdictOf_append, hv]), setPhase_setTodo,
      setTodo_setTodo]
    exact .turn (engineTurn_commit (r := r) (by simpa) (by simp)) (.refl _ _)
  · rw [checkRead_mismatch _ _ _ _ hv, recoverRead_eq_recoverRest,
      afterVerdict_mismatch (by simp [verdictOf_append, hv])]
    simp only [countError_setTodo, throttle_setTodo, setPhase_setTodo, setEstate_setTodo, setTodo_setTodo]
    exact engineReaches_recoverRest (s := setEstate .recovering (setPhase .recover _)) (r := r) (by simpa) (by simp)

theorem engineReaches_respRest (hp : s.phase = .resp) :
    EngineReaches 7 (setTodo [.readBytes (responseLength r.data)] s) (respRest r.data r.out r.caller s) := by
  refine .turn (engineTurn_resp hr hp) ?_
  by_cases hn : (s.answerAt 0).n = responseLength r.data
  · rw [respRest, if_pos hn, afterResponse_full _ _ (by simpa), setPhase_setTodo, setTodo_setTodo]
    exact engineReaches_checkRead (s := setPhase .check _) (r := r) (by simpa) (by simp)
  · rw [respRest, if_neg hn, afterResponse_short _ _ (by simpa), countError_setTodo, throttle_setTodo, release_setTodo]
    exact .refl _ _

/-- READ from its frame on. -/
theorem engineReaches_readBody {addr : RegAddr} (hp : s.phase = .cmd) (hop : r.op = .read)
    (hframe : frameOf r = readFrame addr r.data) :
    EngineReaches 10 (setTodo [frameAction r, .writeBytes] s) (readBody addr r.data r.out r.caller s) := by
  refine .turn (engineTurn_frame hr hp) (.turn (engineTurn_command (r := r) (by simpa) (by simpa)) ?_)
  rw [hframe, readBody_eq_respRest]
  by_cases hn : (s.answerAt 0).n = Config.cmdLen
  · rw [if_pos hn, afterCommand_read hop (by simpa), setPhase_setTodo, setTodo_setTodo]
    refine .turn (engineTurn_settle (r := r) (by simpa) (by simp)) ?_
    rw [afterSettle, setPhase_setTodo, setTodo_setTodo]
    exact engineReaches_respRest (r := r) (by simpa) (by simp)
  · rw [if_neg hn, afterCommand_short (by simpa), release_setTodo]
    exact .refl _ _

/-- WRITE from its frame on. -/
theorem engineReaches_writeBody {addr : RegAddr} (hp : s.phase = .cmd) (hop : r.op = .write)
    (hframe : frameOf r = writeFrame addr r.data) :
    EngineReaches 2 (setTodo [frameAction r, .writeBytes] s) (writeBody addr r.data r.caller s) := by
  refine .turn (engineTurn_frame hr hp) (.turn (engineTurn_command (r := r) (by simpa) (by simpa)) ?_)
  rw [hframe, writeBody]
  by_cases hn : (s.answerAt 0).n = Config.cmdLen
  · rw [afterCommand_write hop (by simpa), release_setTodo, if_pos (by simpa)]
    exact .refl _ _
  · rw [afterCommand_short (by simpa), release_setTodo, if_neg (by simpa)]
    exact .refl _ _

theorem engineReaches_initBody (hp : s.phase = .config) :
    EngineReaches 1 (setTodo [.configure] s) (initBody r.caller s) := by
  refine .turn (engineTurn_config hr hp) ?_
  cases hok : (s.answerAt 0).ok <;> simp [afterConfigure, initBody, hok, EngineReaches.refl]

theorem engineReaches_shutdownBody (hp : s.phase = .final) :
    EngineReaches 1 (setTodo [] s) (shutdownBody r.caller s) :=
  .turn (engineTurn_final hr hp) (.refl _ _)

end Phases

/-! ### The request that acquire records -/

/-- The record of a WRITE (R43). -/
def writeRequest (c : Nat) (addr : RegAddr) (value : Byte) : Request :=
  { op := .write, addr := addr.setWidth 8, data := value, caller := c, out := 0 }

/-- The record of a READ (R43). -/
def readRequest (c : Nat) (addr : RegAddr) (len : Byte) (out : Nat) : Request :=
  { op := .read, addr := addr.setWidth 8, data := len, caller := c, out := out }

theorem frameOf_writeRequest (c : Nat) (addr : RegAddr) (value : Byte) :
    frameOf (writeRequest c addr value) = writeFrame addr value := by
  simp [frameOf, writeRequest]

theorem frameOf_readRequest (c : Nat) (addr : RegAddr) (len : Byte) (out : Nat) :
    frameOf (readRequest c addr len out) = readFrame addr len := by
  simp [frameOf, readRequest]

theorem openingActions_write (c : Nat) (addr : RegAddr) (value : Byte) :
    openingActions (.write addr value) = [frameAction (writeRequest c addr value), .writeBytes] := by
  simp [openingActions, frameAction, frameOf, writeRequest]

theorem openingActions_read (c : Nat) (addr : RegAddr) (len : Byte) (out : Nat) :
    openingActions (.read addr len out) = [frameAction (readRequest c addr len out), .writeBytes] := by
  simp [openingActions, frameAction, frameOf, readRequest]

/-- The request in progress after acquire, carried on phase by phase, ends in the state of the whole request. -/
theorem engineReaches_requestBody {i : Instr} (hl : i.takesLock = true) (c : Nat) (s : State) :
    EngineReaches 10 (setTodo (openingActions i) (acquireLock c i s)) (requestBody i c (acquireLock c i s)) := by
  cases i <;> cases hl
  case init => exact (engineReaches_initBody (s := acquireLock c .init s) rfl rfl).mono (by omega)
  case write addr value =>
    rw [openingActions_write c]
    have hframe := frameOf_writeRequest c addr value
    exact (engineReaches_writeBody (s := acquireLock c (.write addr value) s) rfl rfl rfl hframe).mono (by omega)
  case read addr len out =>
    rw [openingActions_read c]
    have hframe := frameOf_readRequest c addr len out
    exact engineReaches_readBody (s := acquireLock c (.read addr len out) s) rfl rfl rfl hframe
  case shutdown => exact (engineReaches_shutdownBody (s := acquireLock c .shutdown s) rfl rfl).mono (by omega)

/-- Settles O53: both grants take the lock alike, and the turns then follow the body of the whole request. -/
theorem atomicRequestIsExact : Obligations.AtomicRequestIsExact := by
  intro i s hl hc
  rw [exec_of_takesLock hl, beginRequest_of_takesLock hl]
  refine ⟨fun ⟨hfree, hadm⟩ => ?_, fun hnot => ?_⟩
  · obtain ⟨k, hk, hrun⟩ := engineReaches_requestBody hl s.caller s
    refine ⟨k, _, _, hk, lockedRequest_admitted i _ s hc hfree hadm, rfl, rfl, hrun, ?_⟩
    exact lockedRequest_admitted i _ s hc hfree hadm
  · exact lockedRequest_congr hnot _ _

end Sys2Proof.Proofs
end

section
/-! SUPPORT. What one step can do, said once: a quiet move, which leaves every transaction as it is, the engine's turn,
or the grant of the free lock to an admitted request; and that records only grow (spec/10_state.md R40, R44 to R46). -/

namespace Sys2Proof.Proofs

open Sys2Proof.Machine Sys2Proof.Laws

/-! ### Records only grow -/

/-- No record of `s` loses an entry on the way to `t`, and the parameters and the number of callers stay. -/
def Grows (s t : State) : Prop :=
  s.bustrace <+: t.bustrace ∧ s.diagtrace <+: t.diagtrace ∧ s.reasons <+: t.reasons ∧
  (s.refused = true → t.refused = true) ∧ (∀ c, resultsOf s c <+: resultsOf t c) ∧ t.params = s.params ∧
  t.callers.length = s.callers.length

theorem Grows.refl (s : State) : Grows s s :=
  ⟨List.prefix_rfl, List.prefix_rfl, List.prefix_rfl, id, fun _ => List.prefix_rfl, rfl, rfl⟩

theorem Grows.trans {s t u : State} (h : Grows s t) (h' : Grows t u) : Grows s u := by
  obtain ⟨hbus, hdiag, hreasons, hrefused, hresults, hparams, hcallers⟩ := h
  obtain ⟨hbus', hdiag', hreasons', hrefused', hresults', hparams', hcallers'⟩ := h'
  exact ⟨hbus.trans hbus', hdiag.trans hdiag', hreasons.trans hreasons', hrefused' ∘ hrefused,
    fun c => (hresults c).trans (hresults' c), hparams'.trans hparams, hcallers'.trans hcallers⟩

/-- An update of one caller that keeps its results keeps everyone's. -/
theorem resultsOf_updateCaller {f : Caller → Caller} (hf : ∀ k, (f k).results = k.results) (c : Nat) (s : State)
    (d : Nat) : resultsOf (updateCaller c f s) d = resultsOf s d := by
  simp only [resultsOf, updateCaller_callers, List.getElem?_modify]
  cases s.callers[d]? with
  | none => rfl
  | some k => by_cases hcd : c = d <;> simp [hcd, hf]

/-- A delivered result goes to the end of one caller's list. -/
theorem resultsOf_prefix_deliver (c : Nat) (x : Result) (s : State) (d : Nat) :
    resultsOf s d <+: resultsOf (deliver c x s) d := by
  by_cases hcd : d = c
  · subst hcd
    by_cases hd : d < s.callers.length
    · rw [resultsOf_deliver _ _ _ hd]
      exact List.prefix_append _ _
    · simp [resultsOf, hd]
  · rw [resultsOf_deliver_other _ _ _ _ hcd]

/-- An update of one caller that keeps its results is no loss. -/
theorem grows_updateCaller {f : Caller → Caller} (hf : ∀ k, (f k).results = k.results) (c : Nat) (s : State) :
    Grows s (updateCaller c f s) :=
  ⟨List.prefix_rfl, List.prefix_rfl, List.prefix_rfl, id, fun d => by rw [resultsOf_updateCaller hf], rfl, by simp⟩

section Growth

variable {s t : State} (h : Grows s t)
include h

theorem Grows.setPhase (p : Phase) : Grows s (setPhase p t) := h
theorem Grows.setEstate (e : EngineState) : Grows s (setEstate e t) := h
theorem Grows.setCmd (f : CmdFrame) : Grows s (setCmd f t) := h
theorem Grows.setTodo (l : List Instr) : Grows s (setTodo l t) := h
theorem Grows.acquireLock (c : Nat) (i : Instr) : Grows s (acquireLock c i t) := h
theorem Grows.countError : Grows s (countError t) := h
theorem Grows.clearErrors : Grows s (clearErrors t) := h
theorem Grows.storeBytes (out : Nat) (bytes : List Byte) : Grows s (storeBytes out bytes t) := h
theorem Grows.validateResponse (payload : List Byte) (trailer : Byte) :
    Grows s (validateResponse payload trailer t) := h

theorem Grows.record (e : BusEvent) : Grows s (record e t) :=
  h.trans ⟨List.prefix_append _ _, List.prefix_rfl, List.prefix_rfl, id, fun _ => List.prefix_rfl, rfl, rfl⟩

theorem Grows.busConfigure : Grows s (busConfigure t).2 :=
  h.record (.configure t.params.busConfig (t.answerAt 0).ok)
theorem Grows.busWriteBytes : Grows s (busWriteBytes t).2 := h.record (.writeBytes t.cmd.bytes (t.answerAt 0).n)
theorem Grows.busDelay (us : Nat) : Grows s (busDelay us t) := h.record (.delay us)
theorem Grows.busReadBytes (k : Nat) : Grows s (busReadBytes k t).2 :=
  h.record (.readBytes k (t.answerAt 0).n (t.bytesAt 0 k))
theorem Grows.busClose : Grows s (busClose t) := h.record .closeBus
theorem Grows.busOpen : Grows s (busOpen t).2 := h.record (.openBus (t.answerAt 0).ok)

theorem Grows.throttle (c : Nat) (kind : DiagKind) : Grows s (throttle c kind t) :=
  h.trans ⟨List.prefix_rfl, List.prefix_append _ _, List.prefix_rfl, id, fun _ => List.prefix_rfl, rfl, rfl⟩

theorem Grows.deliver (c : Nat) (x : Result) : Grows s (deliver c x t) :=
  h.trans ⟨List.prefix_rfl, List.prefix_rfl, List.prefix_rfl, id, resultsOf_prefix_deliver c x t, rfl, by simp⟩

theorem Grows.release (c : Nat) (x : Result) : Grows s (release c x t) := h.deliver c x
theorem Grows.raiseFault (c : Nat) (e : FatalReason) : Grows s (raiseFault c e t) := h.deliver c (fatalResult e)

end Growth

/-! ### Quiet moves -/

/-- The part of the state that belongs to the lock and the engine: the callers, TraceFlag, the refusal record, the
request port and the order of the agents are blanked. -/
def transactionOf (s : State) : State :=
  { s with callers := [], trace := false, refused := false, reasons := [], caller := 0, moves := [], draws := 0 }

/-- A quiet move: it leaves every transaction as it is, loses no record, keeps the refusal mark right, and in FAULTED
changes neither TraceFlag nor anyone's results (R194). -/
structure Quiet (s t : State) : Prop where
  grows       : Grows s t
  transaction : transactionOf t = transactionOf s
  refusals    : RefusedMark s → RefusedMark t
  faulted     : s.estate = .faulted → t.trace = s.trace ∧ ∀ c, resultsOf t c = resultsOf s c

namespace Quiet

variable {s t u : State}

theorem params (h : Quiet s t) : t.params = s.params := (congrArg State.params h.transaction :)
theorem phase (h : Quiet s t) : t.phase = s.phase := (congrArg State.phase h.transaction :)
theorem estate (h : Quiet s t) : t.estate = s.estate := (congrArg State.estate h.transaction :)
theorem errcnt (h : Quiet s t) : t.errcnt = s.errcnt := (congrArg State.errcnt h.transaction :)
theorem lock (h : Quiet s t) : t.lock = s.lock := (congrArg State.lock h.transaction :)
theorem chan (h : Quiet s t) : t.chan = s.chan := (congrArg State.chan h.transaction :)
theorem fault (h : Quiet s t) : t.fault = s.fault := (congrArg State.fault h.transaction :)
theorem cmd (h : Quiet s t) : t.cmd = s.cmd := (congrArg State.cmd h.transaction :)
theorem resp (h : Quiet s t) : t.resp = s.resp := (congrArg State.resp h.transaction :)
theorem rn (h : Quiet s t) : t.rn = s.rn := (congrArg State.rn h.transaction :)
theorem req (h : Quiet s t) : t.req = s.req := (congrArg State.req h.transaction :)
theorem bustrace (h : Quiet s t) : t.bustrace = s.bustrace := (congrArg State.bustrace h.transaction :)
theorem diagtrace (h : Quiet s t) : t.diagtrace = s.diagtrace := (congrArg State.diagtrace h.transaction :)
theorem mem (h : Quiet s t) : t.mem = s.mem := (congrArg State.mem h.transaction :)
theorem todo (h : Quiet s t) : t.todo = s.todo := (congrArg State.todo h.transaction :)
theorem verdict (h : Quiet s t) : t.verdict = s.verdict := (congrArg State.verdict h.transaction :)

theorem callersLength (h : Quiet s t) : t.callers.length = s.callers.length := by
  obtain ⟨-, -, -, -, -, -, hcallers⟩ := h.grows
  exact hcallers

theorem refl (s : State) : Quiet s s := ⟨.refl s, rfl, id, fun _ => ⟨rfl, fun _ => rfl⟩⟩

theorem trans (h : Quiet s t) (h' : Quiet t u) : Quiet s u where
  grows := h.grows.trans h'.grows
  transaction := h'.transaction.trans h.transaction
  refusals := h'.refusals ∘ h.refusals
  faulted he := by
    obtain ⟨htrace, hresults⟩ := h.faulted he
    obtain ⟨htrace', hresults'⟩ := h'.faulted (h.estate.trans he)
    exact ⟨htrace'.trans htrace, fun c => (hresults' c).trans (hresults c)⟩

/-- An update of one caller that keeps its results is quiet. -/
theorem of_updateCaller {f : Caller → Caller} (hf : ∀ k, (f k).results = k.results) (c : Nat) (s : State) :
    Quiet s (updateCaller c f s) where
  grows := grows_updateCaller hf c s
  transaction := rfl
  refusals := id
  faulted _ := ⟨rfl, resultsOf_updateCaller hf c s⟩

theorem of_moveTaken (s : State) : Quiet s (moveTaken s) := ⟨.refl s, rfl, id, fun _ => ⟨rfl, fun _ => rfl⟩⟩

theorem of_selectCaller (c : Nat) (s : State) : Quiet s (selectCaller c s) :=
  ⟨.refl s, rfl, id, fun _ => ⟨rfl, fun _ => rfl⟩⟩

theorem of_setPending (c : Nat) (call : Call) (s : State) : Quiet s (setPending c call s) :=
  of_updateCaller (by intro; rfl) c s

theorem of_propagateTo (d : Nat) (s : State) : Quiet s (propagateTo d s) := of_updateCaller (by intro; rfl) d s

theorem of_refuse (c : Nat) (r : Reason) (s : State) : Quiet s (refuse c r s) where
  grows := Grows.trans (t := { s with refused := true, reasons := s.reasons ++ [r] })
    ⟨List.prefix_rfl, List.prefix_rfl, List.prefix_append _ _, fun _ => rfl, fun _ => List.prefix_rfl, rfl, rfl⟩
    (grows_updateCaller (by intro; rfl) c _)
  transaction := rfl
  refusals _ := by simp [RefusedMark]
  faulted _ := ⟨rfl, resultsOf_updateCaller (by intro; rfl) c _⟩

/-- SET_LOGGING outside FAULTED is quiet: its writes are no transaction's (R79, R172). -/
theorem of_setLogging (c : Nat) (enable : Bool) {s : State} (he : s.estate ≠ .faulted) :
    Quiet s (deliver c .ok (setTrace c enable s)) where
  grows := Grows.deliver (grows_updateCaller (by intro; rfl) c { s with trace := enable }) c .ok
  transaction := rfl
  refusals := id
  faulted hf := absurd hf he

end Quiet

/-! ### Requests that are not carried on -/

theorem admitLogging_of_not_faulted {e : EngineState} (h : e ≠ .faulted) : admitLogging e = .admitted := by
  cases e with
  | faulted => exact absurd rfl h
  | _ => rfl

/-- SET_LOGGING is quiet. -/
theorem quiet_of_execSetLogging {enable : Bool} {s t : State} (h : execSetLogging enable s = .next t) : Quiet s t := by
  unfold execSetLogging at h
  by_cases hc : s.caller < s.callers.length
  · rw [if_pos hc] at h
    by_cases he : s.estate = .faulted
    · simp only [he, admitLogging] at h
      cases h
      exact .refl s
    · simp only [admitLogging_of_not_faulted he] at h
      cases h
      exact .of_setLogging _ _ he
  · rw [if_neg hc] at h
    cases h

/-- A locked request waits, has no step or is refused, which is quiet, or takes the free lock and is carried on. -/
theorem quiet_or_carried_of_lockedRequest {i : Instr} {body : Nat → State → State} {s t : State}
    (h : lockedRequest i body s = .next t) :
    Quiet s t ∨ (s.lock = .free ∧ admitRequest i s.estate = .admitted ∧
      t = body s.caller (acquireLock s.caller i s)) := by
  obtain ⟨hf, -⟩ | ⟨hw, -, -⟩ | ⟨r, hr, -, -, -⟩ | ⟨hb, -, hfree, hadm⟩ := lockedRequest_cases i body s
  · rw [hf] at h; cases h
  · rw [hw] at h; cases h; exact .inl (.refl s)
  · rw [hr] at h; cases h; exact .inl (.of_refuse _ _ s)
  · rw [hb] at h; cases h; exact .inr ⟨hfree, hadm, rfl⟩

/-- A request without the lock is SET_LOGGING. -/
theorem eq_setLogging_of_not_takesLock {i : Instr} (hi : i.isRequest = true) (hl : i.takesLock = false) :
    ∃ enable, i = .setLogging enable := by
  cases i <;> cases hi <;> cases hl
  exact ⟨_, rfl⟩

/-- The decoder of request words reads requests only (R89, R90). -/
theorem isRequest_of_decodeRequest {word : ReqWord} {out : Nat} {i : Instr} (h : decodeRequest word out = .ok i) :
    i.isRequest = true := by
  unfold decodeRequest at h
  split_ifs at h <;> cases h <;> rfl

/-- A decoded request without the lock is quiet. -/
theorem quiet_of_exec_of_not_takesLock {word : ReqWord} {out : Nat} {i : Instr} (hd : decodeRequest word out = .ok i)
    (hl : i.takesLock = false) {s t : State} (h : exec i s = .next t) : Quiet s t := by
  obtain ⟨enable, rfl⟩ := eq_setLogging_of_not_takesLock (isRequest_of_decodeRequest hd) hl
  exact quiet_of_execSetLogging h

/-! ### The step -/

/-- The lock is free for the waiting request of caller `c`, which decodes to `i` and is admitted (R73, R150, R197). -/
structure Grantable (s : State) (c : Nat) (call : Call) (i : Instr) : Prop where
  waiting  : waitingCall s c = some call
  decoded  : decodeRequest call.word call.out = .ok i
  locks    : i.takesLock = true
  free     : s.lock = .free
  admitted : admitRequest i s.estate = .admitted

/-- A grant is quiet, or carries on an admitted request that takes the free lock. -/
theorem withWaiting_quiet_or_granted {c : Nat} {run : Instr → State → Host.Outcome State Fault Refusal}
    {body : Instr → Nat → State → State}
    (hlocks : ∀ i, i.takesLock = true → ∀ s, run i s = lockedRequest i (body i) s)
    (hexec : ∀ i, i.takesLock = false → run i = exec i) {s t : State} (h : withWaiting c run s = .next t) :
    Quiet s t ∨ ∃ call i, Grantable s c call i ∧ t = body i c (acquireLock c i (selectCaller c s)) := by
  obtain ⟨hn, -⟩ | ⟨call, r, -, -, hr⟩ | ⟨call, i, hw, hd, hi⟩ := withWaiting_cases c run s
  · rw [hn] at h; cases h; exact .inl (.refl s)
  · rw [hr] at h; cases h; exact .inl (.of_refuse c r s)
  · rw [hi] at h
    cases hl : i.takesLock with
    | false =>
      rw [hexec i hl] at h
      exact .inl ((Quiet.of_selectCaller c s).trans (quiet_of_exec_of_not_takesLock hd hl h))
    | true =>
      rw [hlocks i hl] at h
      rcases quiet_or_carried_of_lockedRequest h with hq | ⟨hfree, hadm, ht⟩
      · exact .inl ((Quiet.of_selectCaller c s).trans hq)
      · exact .inr ⟨call, i, ⟨hw, hd, hl, hfree, hadm⟩, ht⟩

/-- An issue is quiet: a locked request only stands at the port, and SET_LOGGING runs (R150). -/
theorem quiet_of_issueRequest {c : Nat} {word : ReqWord} {out : Nat} {s t : State}
    (h : issueRequest c word out s = .next t) : Quiet s t := by
  obtain ⟨hn, -⟩ | ⟨r, -, -, hr⟩ | ⟨i, -, -, -, hp⟩ | ⟨i, -, hd, hl, hi⟩ := issueRequest_cases c word out s
  · rw [hn] at h; cases h; exact .refl s
  · rw [hr] at h; cases h; exact (Quiet.of_setPending c _ s).trans (.of_refuse c r _)
  · rw [hp] at h; cases h; exact .of_setPending c _ s
  · rw [hi] at h
    exact ((Quiet.of_setPending c _ s).trans (.of_selectCaller c _)).trans (quiet_of_exec_of_not_takesLock hd hl h)

/-- What one step can do. -/
theorem step_cases {s t : State} (h : step s = .next t) :
    Quiet s t ∨
    (nextMove s = .engine ∧ engineTurn (moveTaken s) = .next t) ∨
    (∃ c call i, nextMove s = .serve c ∧ Grantable s c call i ∧
      t = requestBody i c (acquireLock c i (selectCaller c (moveTaken s)))) ∨
    (∃ c call i, nextMove s = .acquire c ∧ Grantable s c call i ∧
      t = setTodo (openingActions i) (acquireLock c i (selectCaller c (moveTaken s)))) := by
  have hmove := Quiet.of_moveTaken s
  cases hm : nextMove s with
  | issue c word out =>
    rw [step_eq_issueRequest hm] at h
    exact .inl (hmove.trans (quiet_of_issueRequest h))
  | serve c =>
    rw [step_eq_serveCaller hm] at h
    rcases withWaiting_quiet_or_granted (fun _ => exec_of_takesLock) (fun _ _ => rfl) h with hq | ⟨call, i, hg, ht⟩
    · exact .inl (hmove.trans hq)
    · exact .inr (.inr (.inl ⟨c, call, i, rfl, ⟨hg.waiting, hg.decoded, hg.locks, hg.free, hg.admitted⟩, ht⟩))
  | acquire c =>
    rw [step_eq_acquireCaller hm] at h
    rcases withWaiting_quiet_or_granted (fun _ => beginRequest_of_takesLock)
        (fun _ hl => by funext s; simp [beginRequest, hl]) h with hq | ⟨call, i, hg, ht⟩
    · exact .inl (hmove.trans hq)
    · exact .inr (.inr (.inr ⟨c, call, i, rfl, ⟨hg.waiting, hg.decoded, hg.locks, hg.free, hg.admitted⟩, ht⟩))
  | engine =>
    rw [step_eq_engineTurn hm] at h
    exact .inr (.inl ⟨rfl, h⟩)
  | propagate d =>
    have ht : t = propagateTo d (moveTaken s) := by simpa [step, hm, makeMove] using h.symm
    exact .inl (ht ▸ hmove.trans (.of_propagateTo d _))

end Sys2Proof.Proofs
end

section
/-! PROOF. No step takes anything out of a record (O45): every part of a request lets the records grow, so the engine's
turn and a whole request do. -/

namespace Sys2Proof.Proofs

open Sys2Proof.Machine Sys2Proof.Laws

section Growth

variable {s t : State} (h : Grows s t)
include h

/-! ### Whole requests -/

theorem Grows.initBody (c : Nat) : Grows s (initBody c t) := by
  unfold Machine.initBody
  dsimp only
  split
  · exact (h.busConfigure.setEstate _).release c _
  · exact h.busConfigure.raiseFault c _

theorem Grows.writeBody (addr : RegAddr) (value : Byte) (c : Nat) : Grows s (writeBody addr value c t) :=
  (h.setCmd _).busWriteBytes.release c _

theorem Grows.shutdownBody (c : Nat) : Grows s (shutdownBody c t) := (h.setEstate _).release c _

theorem Grows.commitRead (len : Byte) (out c : Nat) : Grows s (commitRead len out c t) :=
  (h.clearErrors.storeBytes _ _).release c _

theorem Grows.reinitialize : Grows s (reinitialize t).2 := by
  have hopened := (h.busClose.busDelay Config.tReinitPreUs).busOpen
  unfold Machine.reinitialize
  dsimp only
  split_ifs
  · exact hopened.busConfigure.busDelay _
  · exact hopened.busConfigure
  · exact hopened.busDelay _
  · exact hopened

theorem Grows.recoverRest (c : Nat) : Grows s (recoverRest c t) := by
  unfold Proofs.recoverRest
  split
  · exact (h.reinitialize.setEstate _).release c _
  · exact h.reinitialize.raiseFault c _

theorem Grows.checkRead (len : Byte) (out c : Nat) : Grows s (checkRead len out c t) := by
  have hchecked := h.validateResponse (payloadOf t.resp len) (trailerOf t.resp len)
  by_cases hv : trailerOf t.resp len = Config.ck (payloadOf t.resp len)
  · rw [checkRead_valid _ _ _ _ hv]
    exact (hchecked.setPhase _).commitRead len out c
  · rw [checkRead_mismatch _ _ _ _ hv, recoverRead_eq_recoverRest]
    exact (((hchecked.countError.throttle c _).setPhase _).setEstate _).recoverRest c

theorem Grows.respRest (len : Byte) (out c : Nat) : Grows s (respRest len out c t) := by
  have hanswered := h.busReadBytes (responseLength len)
  unfold Proofs.respRest
  split
  · exact (hanswered.setPhase _).checkRead len out c
  · exact (hanswered.countError.throttle c _).release c _

theorem Grows.readBody (addr : RegAddr) (len : Byte) (out c : Nat) : Grows s (readBody addr len out c t) := by
  have hwritten := (h.setCmd (readFrame addr len)).busWriteBytes
  rw [readBody_eq_respRest]
  split
  · exact (((hwritten.setPhase _).busDelay _).setPhase _).respRest len out c
  · exact hwritten.release c _

theorem Grows.requestBody {i : Instr} (hl : i.takesLock = true) (c : Nat) : Grows s (requestBody i c t) := by
  cases i <;> cases hl
  case init => exact h.initBody c
  case write addr value => exact h.writeBody addr value c
  case read addr len out => exact h.readBody addr len out c
  case shutdown => exact h.shutdownBody c

/-! ### One action, and what follows it -/

theorem Grows.actionEffect (i : Instr) : Grows s (actionEffect i t) := by
  cases i
  case configure => exact h.busConfigure
  case writeBytes => exact h.busWriteBytes
  case delay us => exact h.busDelay us
  case readBytes k => exact h.busReadBytes k
  case closeBus => exact h.busClose
  case openBus => exact h.busOpen
  all_goals exact h

theorem Grows.afterConfigure (r : Request) : Grows s (afterConfigure r t) := by
  unfold Machine.afterConfigure
  split
  · exact (h.setEstate _).release _ _
  · exact h.raiseFault _ _

theorem Grows.afterCommand (r : Request) : Grows s (afterCommand r t) := by
  unfold Machine.afterCommand
  split
  · cases r.op
    case read => exact (h.setPhase _).setTodo _
    case write => exact h.release _ _
    all_goals exact h
  · exact h.release _ _

theorem Grows.afterResponse (r : Request) : Grows s (afterResponse r t) := by
  unfold Machine.afterResponse
  split
  · exact (h.setPhase _).setTodo _
  · exact (h.countError.throttle _ _).release _ _

theorem Grows.afterVerdict (r : Request) : Grows s (afterVerdict r t) := by
  unfold Machine.afterVerdict
  split
  · exact (h.setPhase _).setTodo _
  · exact (((h.countError.throttle _ _).setPhase _).setEstate _).setTodo _

theorem Grows.afterRecovery (r : Request) : Grows s (afterRecovery r t) := by
  unfold Machine.afterRecovery
  split_ifs
  · exact (h.setEstate _).release _ _
  · exact h
  · exact h.raiseFault _ _

theorem Grows.afterAction (i : Instr) : Grows s (afterAction i t) := by
  unfold Machine.afterAction
  cases t.req with
  | none => exact h
  | some r =>
    cases t.phase
    case config => exact h.afterConfigure r
    case cmd =>
      dsimp only
      split
      · exact h.afterCommand r
      · exact h
    case settle => exact (h.setPhase _).setTodo _
    case resp => exact h.afterResponse r
    case check => exact h.afterVerdict r
    case recover => exact h.afterRecovery r
    all_goals exact h

theorem Grows.silentPhase : Grows s (silentPhase t) := by
  unfold Machine.silentPhase
  cases t.req with
  | none => exact h
  | some r =>
    cases t.phase
    case commit => exact h.commitRead _ _ _
    case final => exact h.shutdownBody _
    all_goals exact h

end Growth

/-! ### The step -/

theorem grows_of_exec {i : Instr} {s t : State} (h : exec i s = .next t) : Grows s t := by
  cases hi : i.isRequest with
  | false =>
    rw [exec_of_action hi] at h
    cases h
    exact (Grows.refl s).actionEffect i
  | true =>
    cases hl : i.takesLock with
    | false =>
      obtain ⟨enable, rfl⟩ := eq_setLogging_of_not_takesLock hi hl
      exact (quiet_of_execSetLogging h).grows
    | true =>
      rw [exec_of_takesLock hl] at h
      obtain hq | ⟨-, -, rfl⟩ := quiet_or_carried_of_lockedRequest h
      · exact hq.grows
      · exact ((Grows.refl s).acquireLock _ i).requestBody hl _

theorem grows_of_engineTurn {s t : State} (h : engineTurn s = .next t) : Grows s t := by
  cases ht : s.todo with
  | nil =>
    have hsilent : t = silentPhase s := by simpa [engineTurn, ht] using h.symm
    exact hsilent ▸ (Grows.refl s).silentPhase
  | cons i rest =>
    rw [engineTurn_of_todo ht] at h
    obtain ⟨u, hexec, rfl⟩ := continueWith_next h
    exact (((Grows.refl s).setTodo rest).trans (grows_of_exec hexec)).afterAction i

/-- Settles O45: a quiet move, an engine's turn, a whole request and an acquire each let the records grow. -/
theorem recordsOnlyGrow : Obligations.RecordsOnlyGrow := by
  intro s t h
  have hmove := Quiet.of_moveTaken s
  obtain hq | ⟨-, hturn⟩ | ⟨c, call, i, -, hg, rfl⟩ | ⟨c, call, i, -, hg, rfl⟩ := step_cases h
  · exact hq.grows
  · exact hmove.grows.trans (grows_of_engineTurn hturn)
  · exact ((hmove.trans (.of_selectCaller c _)).grows.acquireLock c i).requestBody hg.locks c
  · exact ((hmove.trans (.of_selectCaller c _)).grows.acquireLock c i).setTodo _

end Sys2Proof.Proofs
end

section
/-! SUPPORT. The engine's turn under the invariant of the block, said once: what it is in each phase of the request in
progress (spec/10_state.md R32). -/

namespace Sys2Proof.Proofs

open Sys2Proof.Machine Sys2Proof.Laws

/-- What the engine's turn makes of `s`, phase by phase, for the request `r` in progress. -/
inductive TurnOf (s : State) (r : Request) : State → Prop
  | configure (hp : s.phase = .config) (hop : r.op = .init) (he : s.estate = .uninitialized ∨ s.estate = .ready) :
      TurnOf s r (afterConfigure r (setTodo [] (busConfigure s).2))
  | frame (hp : s.phase = .cmd) (hop : r.op = .write ∨ r.op = .read) (he : s.estate = .ready) :
      TurnOf s r (setTodo [.writeBytes] (setCmd (frameOf r) s))
  | command (hp : s.phase = .cmd) (hop : r.op = .write ∨ r.op = .read) (he : s.estate = .ready)
      (hcmd : s.cmd = frameOf r) : TurnOf s r (afterCommand r (setTodo [] (busWriteBytes s).2))
  | settle (hp : s.phase = .settle) (hop : r.op = .read) (he : s.estate = .ready) :
      TurnOf s r (afterSettle r (setTodo [] (busDelay Config.tSettleUs s)))
  | respond (hp : s.phase = .resp) (hop : r.op = .read) (he : s.estate = .ready) :
      TurnOf s r (afterResponse r (setTodo [] (busReadBytes (responseLength r.data) s).2))
  | judge (hp : s.phase = .check) (hop : r.op = .read) (he : s.estate = .ready) (hn : s.rn = responseLength r.data) :
      TurnOf s r (afterVerdict r (setTodo []
        (validateResponse (payloadOf s.resp r.data) (trailerOf s.resp r.data) s)))
  | recover {i : Instr} {rest : List Instr} (hp : s.phase = .recover) (hop : r.op = .read) (he : s.estate = .recovering)
      (ht : s.todo = i :: rest) (hpoint : RecoveryPoint s) :
      TurnOf s r (afterRecovery r (setTodo rest (actionEffect i s)))
  | commit (hp : s.phase = .commit) (hop : r.op = .read) (he : s.estate = .ready) :
      TurnOf s r (commitRead r.data r.out r.caller s)
  | finish (hp : s.phase = .final) (hop : r.op = .shutdown)
      (he : s.estate = .uninitialized ∨ s.estate = .ready ∨ s.estate = .terminated) :
      TurnOf s r (shutdownBody r.caller s)

/-- A recovery in progress has an action left to issue. -/
theorem exists_todo_of_recoveryPoint {s : State} (h : RecoveryPoint s) :
    ∃ i rest, s.todo = i :: rest ∧ i.isRequest = false := by
  obtain ht | ⟨ht, -⟩ | ⟨ht, -⟩ | ⟨-, ht, -⟩ | ⟨ht, -⟩ := h
  all_goals exact ⟨_, _, ht, rfl⟩

/-- With a request in progress the engine's turn is that of its phase. -/
theorem exists_turnOf {s : State} {r : Request} (h : BlockInv s) (hr : s.req = some r) :
    ∃ t, engineTurn s = .next t ∧ TurnOf s r t := by
  obtain ⟨-, -, hpoint⟩ := point_of_request h hr
  cases hp : s.phase <;> simp only [PhasePoint, hp] at hpoint
  case config =>
    obtain ⟨hop, he, ht⟩ := hpoint
    exact ⟨_, (engineTurn_eq_setTodo ht).trans (engineTurn_config hr hp), .configure hp hop he⟩
  case cmd =>
    obtain ⟨hop, he, ht | ⟨ht, hcmd⟩⟩ := hpoint
    · exact ⟨_, (engineTurn_eq_setTodo ht).trans (engineTurn_frame hr hp), .frame hp hop he⟩
    · exact ⟨_, (engineTurn_eq_setTodo ht).trans (engineTurn_command hr hp), .command hp hop he hcmd⟩
  case settle =>
    obtain ⟨hop, he, ht⟩ := hpoint
    exact ⟨_, (engineTurn_eq_setTodo ht).trans (engineTurn_settle hr hp), .settle hp hop he⟩
  case resp =>
    obtain ⟨hop, he, ht⟩ := hpoint
    exact ⟨_, (engineTurn_eq_setTodo ht).trans (engineTurn_resp hr hp), .respond hp hop he⟩
  case check =>
    obtain ⟨hop, he, hn, ht⟩ := hpoint
    exact ⟨_, (engineTurn_eq_setTodo ht).trans (engineTurn_check hr hp), .judge hp hop he hn⟩
  case recover =>
    obtain ⟨hop, he, hrec⟩ := hpoint
    obtain ⟨i, rest, ht, hi⟩ := exists_todo_of_recoveryPoint hrec
    exact ⟨_, (engineTurn_eq_setTodo ht).trans (engineTurn_recover hr hi hp), .recover hp hop he ht hrec⟩
  case commit =>
    obtain ⟨hop, he, -, -, ht⟩ := hpoint
    exact ⟨_, (engineTurn_eq_setTodo ht).trans (engineTurn_commit hr hp), .commit hp hop he⟩
  case final =>
    obtain ⟨hop, he, ht⟩ := hpoint
    exact ⟨_, (engineTurn_eq_setTodo ht).trans (engineTurn_final hr hp), .finish hp hop he⟩

/-- The engine's turn under the invariant: nothing where no request is in progress, else the turn of its phase. -/
theorem turn_cases {s t : State} (h : BlockInv s) (hturn : engineTurn s = .next t) :
    (s.req = none ∧ t = s) ∨ ∃ r, s.req = some r ∧ TurnOf s r t := by
  cases hr : s.req with
  | none =>
    have hs := h.sequencer
    simp only [SequencerPoint, hr] at hs
    obtain ⟨-, -, htodo, -⟩ := hs
    rw [engineTurn_of_idle hr htodo] at hturn
    cases hturn
    exact .inl ⟨rfl, rfl⟩
  | some r =>
    obtain ⟨u, hu, hof⟩ := exists_turnOf h hr
    rw [hu] at hturn
    cases hturn
    exact .inr ⟨r, rfl, hof⟩

end Sys2Proof.Proofs
end

section
/-! PROOF. Every step keeps the invariant of the block (O42, O44). The engine's turn keeps it phase by phase; a whole
request keeps it because it is an acquire and a run of turns (O53). -/

namespace Sys2Proof.Proofs

open Sys2Proof.Machine Sys2Proof.Laws

/-! ### The part of the invariant that does not depend on where the sequencer stands -/

/-- The invariant of the block but for the place of the sequencer. -/
def StandingInv (s : State) : Prop :=
  ReadyConfigured s ∧ FaultMark s ∧ CounterInRange s ∧ MemCanonical s ∧ RefusedMark s ∧ CallersPresent s ∧ RespFull s

theorem blockInv_iff {s : State} : BlockInv s ↔ SequencerPoint s ∧ StandingInv s where
  mp h := ⟨h.sequencer, h.configured, h.faultMark, h.counter, h.memory, h.refusals, h.callers, h.response⟩
  mpr := fun ⟨hseq, hready, hfault, hcount, hmem, href, hcall, hresp⟩ =>
    ⟨hseq, hready, hfault, hcount, hmem, href, hcall, hresp⟩

namespace StandingInv

variable {s : State} (h : StandingInv s)
include h

/-! Updates of fields that it does not read. -/

theorem setPhase (p : Phase) : StandingInv (setPhase p s) := h
theorem setCmd (f : CmdFrame) : StandingInv (setCmd f s) := h
theorem setTodo (l : List Instr) : StandingInv (setTodo l s) := h
theorem acquireLock (c : Nat) (i : Instr) : StandingInv (acquireLock c i s) := h
theorem busWriteBytes : StandingInv (busWriteBytes s).2 := h
theorem busDelay (us : Nat) : StandingInv (busDelay us s) := h
theorem validateResponse (payload : List Byte) (trailer : Byte) : StandingInv (validateResponse payload trailer s) := h
theorem throttle (c : Nat) (kind : DiagKind) : StandingInv (throttle c kind s) := h

/-! Updates of fields that it reads. -/

theorem fault_eq_none (he : s.estate ≠ .faulted) : s.fault = none := by
  obtain ⟨-, hfault, -⟩ := h
  by_contra hne
  exact he (hfault.mpr hne)

/-- Neither READY nor FAULTED may be entered in this way. -/
theorem setEstate {e : EngineState} (he : s.estate ≠ .faulted) (hready : e ≠ .ready) (hfaulted : e ≠ .faulted) :
    StandingInv (setEstate e s) := by
  have hnone := h.fault_eq_none he
  obtain ⟨-, -, hrest⟩ := h
  exact ⟨fun h => absurd h hready, by simp [FaultMark, hnone, hfaulted], hrest⟩

/-- READY is entered on a configured channel (R144). -/
theorem setReady (he : s.estate ≠ .faulted) (hchan : s.chan = .configured) :
    StandingInv (Machine.setEstate .ready s) := by
  have hnone := h.fault_eq_none he
  obtain ⟨-, -, hrest⟩ := h
  exact ⟨fun _ => hchan, by simp [FaultMark, hnone], hrest⟩

theorem busConfigure : StandingInv (busConfigure s).2 := by
  obtain ⟨hready, hrest⟩ := h
  refine ⟨fun he => ?_, hrest⟩
  rw [busConfigure_chan, hready he, ite_self]

theorem busClose (he : s.estate ≠ .ready) : StandingInv (busClose s) := by
  obtain ⟨-, hrest⟩ := h
  exact ⟨fun h => absurd h he, hrest⟩

theorem busOpen (he : s.estate ≠ .ready) : StandingInv (busOpen s).2 := by
  obtain ⟨-, hrest⟩ := h
  exact ⟨fun h => absurd h he, hrest⟩

theorem busReadBytes (len : Byte) : StandingInv (busReadBytes (responseLength len) s).2 := by
  obtain ⟨hready, hfault, hcount, hmem, href, hcall, hresp⟩ := h
  refine ⟨hready, hfault, hcount, hmem, href, hcall, ?_⟩
  have hlen := len.isLt
  simp only [RespFull, Config.lenMax] at hresp ⊢
  simp [hresp, responseLength]
  omega

theorem countError : StandingInv (countError s) := by
  obtain ⟨hready, hfault, -, hrest⟩ := h
  exact ⟨hready, hfault, Nat.mod_lt _ (by positivity), hrest⟩

theorem commit (out : Nat) (bytes : List Byte) : StandingInv (storeBytes out bytes (clearErrors s)) := by
  obtain ⟨hready, hfault, -, hmem, hrest⟩ := h
  exact ⟨hready, hfault, by simp [CounterInRange], wf_writeBytes _ _ _ hmem, hrest⟩

theorem release (c : Nat) (x : Result) : StandingInv (release c x s) := by
  obtain ⟨hready, hfault, hcount, hmem, href, hcall, hresp⟩ := h
  exact ⟨hready, hfault, hcount, hmem, href, by simpa [CallersPresent] using hcall, hresp⟩

theorem raiseFault (c : Nat) (e : FatalReason) : StandingInv (raiseFault c e s) := by
  obtain ⟨-, -, hcount, hmem, href, hcall, hresp⟩ := h
  exact ⟨nofun, by simp [FaultMark], hcount, hmem, href, by simpa [CallersPresent] using hcall, hresp⟩

/-! ### Where a request ends -/

theorem blockInv_release (he : s.estate ≠ .recovering) (c : Nat) (x : Result) : BlockInv (Machine.release c x s) :=
  blockInv_iff.mpr ⟨⟨rfl, rfl, rfl, he⟩, h.release c x⟩

theorem blockInv_raiseFault (c : Nat) (e : FatalReason) : BlockInv (Machine.raiseFault c e s) :=
  blockInv_iff.mpr ⟨⟨rfl, rfl, rfl, nofun⟩, h.raiseFault c e⟩

end StandingInv

/-! ### A request in progress -/

/-- The request `r` is in progress and its caller, which exists, holds the lock. -/
def Holding (r : Request) (s : State) : Prop :=
  s.req = some r ∧ s.lock = .held r.caller ∧ r.caller < s.callers.length

theorem Holding.congr {r : Request} {s t : State} (h : Holding r s) (hr : t.req = s.req := by simp)
    (hl : t.lock = s.lock := by simp) (hc : t.callers = s.callers := by simp) : Holding r t := by
  simpa only [Holding, hr, hl, hc] using h

theorem Holding.blockInv {r : Request} {s : State} (h : Holding r s) (hpoint : PhasePoint s r) (hs : StandingInv s) :
    BlockInv s := by
  obtain ⟨hr, hlock, hc⟩ := h
  refine blockInv_iff.mpr ⟨?_, hs⟩
  simp only [SequencerPoint, hr]
  exact ⟨hlock, hc, hpoint⟩

/-! ### The engine's turn, phase by phase -/

section Turn

variable {s : State} {r : Request} (h : StandingInv s)
include h

theorem blockInv_afterConfigure (he : s.estate = .uninitialized ∨ s.estate = .ready) :
    BlockInv (afterConfigure r (setTodo [] (busConfigure s).2)) := by
  unfold afterConfigure
  split
  next hok =>
    rw [lastStatus_setTodo, lastStatus_busConfigure] at hok
    have hfaulted : (busConfigure s).2.estate ≠ .faulted := by rcases he with he | he <;> simp [he]
    have hready := h.busConfigure.setReady hfaulted (by simp [hok])
    exact hready.blockInv_release nofun _ _
  next => exact h.busConfigure.blockInv_raiseFault _ _

theorem blockInv_shutdownBody (he : s.estate = .uninitialized ∨ s.estate = .ready ∨ s.estate = .terminated) (c : Nat) :
    BlockInv (shutdownBody c s) := by
  have hfaulted : s.estate ≠ .faulted := by rcases he with he | he | he <;> simp [he]
  exact (h.setEstate (e := .terminated) hfaulted nofun nofun).blockInv_release nofun _ _

theorem blockInv_recovery_lastDelay {us : Nat} (he : s.estate = .recovering) (hchan : s.chan = .configured) :
    BlockInv (afterRecovery r (setTodo [] (busDelay us s))) := by
  rw [afterRecovery_done (by simp) rfl, setEstate_setTodo, release_setTodo]
  exact ((h.busDelay us).setReady (by simp [he]) hchan).blockInv_release (by simp) _ _

theorem blockInv_commitRead (he : s.estate = .ready) (len : Byte) (out c : Nat) : BlockInv (commitRead len out c s) :=
  (h.commit _ _).blockInv_release (by simp [he]) _ _

variable (hh : Holding r s)
include hh

theorem blockInv_afterCommand (hop : r.op = .write ∨ r.op = .read) (he : s.estate = .ready) :
    BlockInv (afterCommand r (setTodo [] (busWriteBytes s).2)) := by
  have hs := h.busWriteBytes
  by_cases hn : lastWritten (setTodo [] (busWriteBytes s).2) = Config.cmdLen
  · rcases hop with hop | hop
    · rw [afterCommand_write hop hn, release_setTodo]
      exact hs.blockInv_release (by simp [he]) _ _
    · rw [afterCommand_read hop hn]
      exact Holding.blockInv hh.congr (by simp [PhasePoint, hop, he])
        (((hs.setTodo _).setPhase _).setTodo _)
  · rw [afterCommand_short hn, release_setTodo]
    exact hs.blockInv_release (by simp [he]) _ _

theorem blockInv_afterResponse (hop : r.op = .read) (he : s.estate = .ready) :
    BlockInv (afterResponse r (setTodo [] (busReadBytes (responseLength r.data) s).2)) := by
  have hs := h.busReadBytes r.data
  by_cases hn : (s.answerAt 0).n = responseLength r.data
  · rw [afterResponse_full _ _ (by simpa)]
    exact Holding.blockInv hh.congr (by simp [PhasePoint, hop, he, hn]) (((hs.setTodo _).setPhase _).setTodo _)
  · rw [afterResponse_short _ _ (by simpa), countError_setTodo, throttle_setTodo, release_setTodo]
    exact (hs.countError.throttle _ _).blockInv_release (by simp [he]) _ _

theorem blockInv_afterVerdict (hop : r.op = .read) (he : s.estate = .ready) (hn : s.rn = responseLength r.data)
    (payload : List Byte) (trailer : Byte) :
    BlockInv (afterVerdict r (setTodo [] (validateResponse payload trailer s))) := by
  have hs := (h.validateResponse payload trailer).setTodo []
  by_cases hv : (setTodo [] (validateResponse payload trailer s)).verdict = some .valid
  · rw [afterVerdict_valid hv]
    exact Holding.blockInv hh.congr (by simpa [PhasePoint, hop, he, hn] using hv) ((hs.setPhase _).setTodo _)
  · rw [afterVerdict_mismatch hv]
    have hcounted := (hs.countError.throttle r.caller .checksumError).setPhase .recover
    have hrecovering := hcounted.setEstate (e := .recovering) (by simp [he]) nofun nofun
    exact Holding.blockInv hh.congr (by simp [PhasePoint, RecoveryPoint, hop]) (hrecovering.setTodo _)

/-- The recovery goes on where its action was answered ok and left it at a point of the recovery. -/
theorem blockInv_afterRecovery_of_point (hp : s.phase = .recover) (hop : r.op = .read) (he : s.estate = .recovering)
    (hok : lastStatus s = true) (hpoint : RecoveryPoint s) : BlockInv (afterRecovery r s) := by
  obtain ⟨i, rest, ht, -⟩ := exists_todo_of_recoveryPoint hpoint
  rw [afterRecovery_more hok (by simp [ht])]
  exact hh.blockInv (by simpa only [PhasePoint, hp] using ⟨hop, he, hpoint⟩) h

theorem blockInv_recovery_open (hp : s.phase = .recover) (hop : r.op = .read) (he : s.estate = .recovering) :
    BlockInv (afterRecovery r (setTodo ((recoveryActions s.params).drop 3) (busOpen s).2)) := by
  have hs := h.busOpen (by simp [he])
  cases hok : (s.answerAt 0).ok with
  | false =>
    rw [afterRecovery_failed (by simp [hok])]
    exact hs.blockInv_raiseFault _ _
  | true =>
    refine blockInv_afterRecovery_of_point (hs.setTodo _) hh.congr hp hop he (by simp [hok]) ?_
    cases hreconf : s.params.reconfigOnReinit with
    | false => exact .inr (.inr (.inr (.inr (by simp [recoveryActions, hok, hreconf]))))
    | true => exact .inr (.inr (.inr (.inl (by simp [recoveryActions, hok, hreconf]))))

theorem blockInv_recovery_configure (hp : s.phase = .recover) (hop : r.op = .read) (he : s.estate = .recovering) :
    BlockInv (afterRecovery r (setTodo [.delay Config.tReinitPostUs] (busConfigure s).2)) := by
  have hs := h.busConfigure
  cases hok : (s.answerAt 0).ok with
  | false =>
    rw [afterRecovery_failed (by simp [hok])]
    exact hs.blockInv_raiseFault _ _
  | true =>
    refine blockInv_afterRecovery_of_point (hs.setTodo _) hh.congr hp hop he (by simp [hok]) ?_
    exact .inr (.inr (.inr (.inr (by simp [hok]))))

theorem blockInv_afterRecovery {i : Instr} {rest : List Instr} (hp : s.phase = .recover) (hop : r.op = .read)
    (he : s.estate = .recovering) (ht : s.todo = i :: rest) (hpoint : RecoveryPoint s) :
    BlockInv (afterRecovery r (setTodo rest (actionEffect i s))) := by
  obtain hl | ⟨hl, hchan⟩ | ⟨hl, hchan⟩ | ⟨-, hl, hchan⟩ | ⟨hl, hchan⟩ := hpoint <;>
    obtain ⟨rfl, rfl⟩ := List.cons.inj (ht.symm.trans hl)
  · exact blockInv_afterRecovery_of_point ((h.busClose (by simp [he])).setTodo _) hh.congr hp hop he
      (lastStatus_busClose s) (.inr (.inl ⟨rfl, rfl⟩))
  · exact blockInv_afterRecovery_of_point ((h.busDelay _).setTodo _) hh.congr hp hop he
      (lastStatus_busDelay _ s) (.inr (.inr (.inl ⟨rfl, hchan⟩)))
  · exact blockInv_recovery_open h hh hp hop he
  · exact blockInv_recovery_configure h hh hp hop he
  · exact blockInv_recovery_lastDelay h he hchan

end Turn

/-- The turn of a phase keeps the invariant. -/
theorem blockInv_of_turnOf {s t : State} {r : Request} (h : BlockInv s) (hr : s.req = some r) (hturn : TurnOf s r t) :
    BlockInv t := by
  obtain ⟨-, hs⟩ := blockInv_iff.mp h
  obtain ⟨hlock, hc, -⟩ := point_of_request h hr
  have hh : Holding r s := ⟨hr, hlock, hc⟩
  cases hturn with
  | configure _ _ he => exact blockInv_afterConfigure hs he
  | frame hp hop he => 
    exact Holding.blockInv hh.congr (by simp [PhasePoint, hp, hop, he]) ((hs.setCmd _).setTodo _)
  | command _ hop he _ => exact blockInv_afterCommand hs hh hop he
  | settle _ hop he =>
    rw [afterSettle]
    exact Holding.blockInv hh.congr (by simp [PhasePoint, hop, he])
      ((((hs.busDelay _).setTodo _).setPhase _).setTodo _)
  | respond _ hop he => exact blockInv_afterResponse hs hh hop he
  | judge _ hop he hn => exact blockInv_afterVerdict hs hh hop he hn _ _
  | recover hp hop he ht hpoint => exact blockInv_afterRecovery hs hh hp hop he ht hpoint
  | commit _ _ he => exact blockInv_commitRead hs he _ _ _
  | finish _ _ he => exact blockInv_shutdownBody hs he _

theorem blockInv_of_engineTurn {s t : State} (h : BlockInv s) (hturn : engineTurn s = .next t) : BlockInv t := by
  obtain ⟨-, rfl⟩ | ⟨r, hr, hof⟩ := turn_cases h hturn
  · exact h
  · exact blockInv_of_turnOf h hr hof

theorem blockInv_of_engineRun {k : Nat} {s t : State} (h : BlockInv s) (hrun : engineRun k s = .next t) :
    BlockInv t := by
  induction k generalizing s with
  | zero => cases hrun; exact h
  | succ k ih =>
    rw [engineRun] at hrun
    cases hturn : engineTurn s with
    | next u =>
      rw [hturn] at hrun
      exact ih (blockInv_of_engineTurn h hturn) hrun
    | fault e | refused e =>
      rw [hturn] at hrun
      cases hrun

/-! ### Grants and quiet moves -/

theorem estate_of_admitInit {e : EngineState} (h : admitInit e = .admitted) : e = .uninitialized ∨ e = .ready := by
  cases e <;> simp_all [admitInit]

theorem estate_of_admitTransfer {e : EngineState} (h : admitTransfer e = .admitted) : e = .ready := by
  cases e <;> simp_all [admitTransfer]

theorem estate_of_admitShutdown {e : EngineState} (h : admitShutdown e = .admitted) :
    e = .uninitialized ∨ e = .ready ∨ e = .terminated := by
  cases e <;> simp_all [admitShutdown]

/-- Acquire puts the sequencer in the first phase of the request. -/
theorem blockInv_acquire {s : State} {i : Instr} {c : Nat} (h : BlockInv s) (hc : c < s.callers.length)
    (hl : i.takesLock = true) (hadm : admitRequest i s.estate = .admitted) :
    BlockInv (setTodo (openingActions i) (acquireLock c i s)) := by
  obtain ⟨-, hs⟩ := blockInv_iff.mp h
  have hacquired := (hs.acquireLock c i).setTodo (openingActions i)
  cases i <;> cases hl
  case init => exact Holding.blockInv ⟨rfl, rfl, hc⟩ ⟨rfl, estate_of_admitInit hadm, rfl⟩ hacquired
  case write addr value =>
    rw [openingActions_write c]
    exact Holding.blockInv ⟨rfl, rfl, hc⟩ ⟨.inl rfl, estate_of_admitTransfer hadm, .inl rfl⟩ hacquired
  case read addr len out =>
    rw [openingActions_read c]
    exact Holding.blockInv ⟨rfl, rfl, hc⟩ ⟨.inr rfl, estate_of_admitTransfer hadm, .inl rfl⟩ hacquired
  case shutdown => exact Holding.blockInv ⟨rfl, rfl, hc⟩ ⟨rfl, estate_of_admitShutdown hadm, rfl⟩ hacquired

/-- A whole request is an acquire and a run of turns. -/
theorem blockInv_requestBody {s : State} {i : Instr} {c : Nat} (h : BlockInv s) (hc : c < s.callers.length)
    (hl : i.takesLock = true) (hadm : admitRequest i s.estate = .admitted) :
    BlockInv (requestBody i c (acquireLock c i s)) := by
  obtain ⟨k, -, hrun⟩ := engineReaches_requestBody hl c s
  exact blockInv_of_engineRun (blockInv_acquire h hc hl hadm) hrun

theorem Quiet.sequencerPoint_iff {s t : State} (hq : Quiet s t) : SequencerPoint t ↔ SequencerPoint s := by
  simp only [SequencerPoint, PhasePoint, RecoveryPoint, hq.req, hq.phase, hq.lock, hq.todo, hq.estate, hq.callersLength,
    hq.cmd, hq.rn, hq.resp, hq.verdict, hq.params, hq.chan]

theorem Quiet.blockInv {s t : State} (hq : Quiet s t) (h : BlockInv s) : BlockInv t where
  sequencer := hq.sequencerPoint_iff.mpr h.sequencer
  configured he := hq.chan.trans (h.configured (hq.estate.symm.trans he))
  faultMark := by simpa only [FaultMark, hq.estate, hq.fault] using h.faultMark
  counter := by simpa only [CounterInRange, hq.errcnt, hq.params] using h.counter
  memory := by simpa only [MemCanonical, hq.mem] using h.memory
  refusals := hq.refusals h.refusals
  callers := by simpa only [CallersPresent, hq.callersLength, hq.params] using h.callers
  response := by simpa only [RespFull, hq.resp] using h.response

/-- Settles O42: a quiet move leaves what the invariant reads, the engine's turn keeps it phase by phase, and a grant is
an acquire, followed by turns where the request is carried out whole. -/
theorem stepKeepsInvariant : Obligations.StepKeepsInvariant := by
  intro s t h hstep
  have hmoved := (Quiet.of_moveTaken s).blockInv h
  have hselected (c : Nat) := (Quiet.of_selectCaller c (moveTaken s)).blockInv hmoved
  obtain hq | ⟨-, hturn⟩ | ⟨c, call, i, -, hg, rfl⟩ | ⟨c, call, i, -, hg, rfl⟩ := step_cases hstep
  · exact hq.blockInv h
  · exact blockInv_of_engineTurn hmoved hturn
  · exact blockInv_requestBody (hselected c) (waitingCall_lt hg.waiting) hg.locks hg.admitted
  · exact blockInv_acquire (hselected c) (waitingCall_lt hg.waiting) hg.locks hg.admitted

/-- Settles O44: construction is UNINITIALIZED in IDLE, and every step keeps the invariant, which says it. -/
theorem recoveringIsRecoverPhase : Obligations.RecoveringIsRecoverPhase :=
  ⟨fun _ => by simp [RecoveringPhase, State.construct],
    fun s t h hstep => recoveringPhase_of_inv (stepKeepsInvariant s t h hstep)⟩

end Sys2Proof.Proofs
end

section
/-! PROOF. FAULTED is final (O46): in FAULTED no request is in progress and none is admitted, so every step is quiet. -/

namespace Sys2Proof.Proofs

open Sys2Proof.Machine Sys2Proof.Laws

/-- No phase of a request has the engine FAULTED. -/
theorem estate_ne_faulted_of_phasePoint {s : State} {r : Request} (h : PhasePoint s r) : s.estate ≠ .faulted := by
  cases hp : s.phase <;> simp only [PhasePoint, hp] at h
  case config => obtain ⟨-, he | he, -⟩ := h <;> simp [he]
  case final => obtain ⟨-, he | he | he, -⟩ := h <;> simp [he]
  all_goals
    obtain ⟨-, he, -⟩ := h
    simp [he]

theorem req_eq_none_of_faulted {s : State} (h : BlockInv s) (he : s.estate = .faulted) : s.req = none := by
  cases hr : s.req with
  | none => rfl
  | some r =>
    obtain ⟨-, -, hpoint⟩ := point_of_request h hr
    exact absurd he (estate_ne_faulted_of_phasePoint hpoint)

/-- R197: FAULTED admits no request. -/
theorem admitRequest_faulted (i : Instr) : admitRequest i .faulted ≠ .admitted := by
  cases i <;> exact nofun

theorem Grantable.estate_ne_faulted {s : State} {c : Nat} {call : Call} {i : Instr} (hg : Grantable s c call i) :
    s.estate ≠ .faulted := fun he => admitRequest_faulted i (he ▸ hg.admitted)

theorem quiet_of_step_of_faulted {s t : State} (h : BlockInv s) (he : s.estate = .faulted) (hstep : step s = .next t) :
    Quiet s t := by
  have hmove := Quiet.of_moveTaken s
  obtain hq | ⟨-, hturn⟩ | ⟨c, call, i, -, hg, -⟩ | ⟨c, call, i, -, hg, -⟩ := step_cases hstep
  · exact hq
  · obtain ⟨-, rfl⟩ | ⟨r, hr, -⟩ := turn_cases (hmove.blockInv h) hturn
    · exact hmove
    · rw [moveTaken_req, req_eq_none_of_faulted h he] at hr
      cases hr
  · exact absurd he hg.estate_ne_faulted
  · exact absurd he hg.estate_ne_faulted

/-- Settles O46: a quiet step from FAULTED leaves all that the statement names. -/
theorem faultedIsFinal : Obligations.FaultedIsFinal := by
  intro s t h he hstep
  have hq := quiet_of_step_of_faulted h he hstep
  obtain ⟨htrace, hresults⟩ := hq.faulted he
  exact ⟨hq.estate.trans he, hq.fault, h.faultMark.mp he, hq.bustrace, hq.diagtrace, hq.errcnt, hq.chan, htrace, hq.mem,
    hresults⟩

end Sys2Proof.Proofs
end

section
/-! PROOF. Only READ writes the ErrorCounter (O52). -/

namespace Sys2Proof.Proofs

open Sys2Proof.Machine Sys2Proof.Laws

/-! ### What leaves the counter -/

@[simp] theorem initBody_errcnt (c : Nat) (s : State) : (initBody c s).errcnt = s.errcnt := by
  cases hok : (s.answerAt 0).ok <;> simp [initBody, hok]

@[simp] theorem writeBody_errcnt (addr : RegAddr) (value : Byte) (c : Nat) (s : State) :
    (writeBody addr value c s).errcnt = s.errcnt := by
  simp [writeBody]

@[simp] theorem shutdownBody_errcnt (c : Nat) (s : State) : (shutdownBody c s).errcnt = s.errcnt := by
  simp [shutdownBody]

@[simp] theorem afterConfigure_errcnt (r : Request) (s : State) : (afterConfigure r s).errcnt = s.errcnt := by
  cases hok : lastStatus s <;> simp [afterConfigure, hok]

@[simp] theorem afterCommand_errcnt (r : Request) (s : State) : (afterCommand r s).errcnt = s.errcnt := by
  unfold afterCommand
  split
  · cases r.op <;> simp
  · simp

@[simp] theorem afterSettle_errcnt (r : Request) (s : State) : (afterSettle r s).errcnt = s.errcnt := by
  simp [afterSettle]

@[simp] theorem afterRecovery_errcnt (r : Request) (s : State) : (afterRecovery r s).errcnt = s.errcnt := by
  unfold afterRecovery
  split_ifs <;> simp

/-! ### Who writes it -/

/-- A turn of the engine that changes the counter is a READ's, in RESP, CHECK or COMMIT. -/
theorem read_of_turnOf_errcnt {s t : State} {r : Request} (hturn : TurnOf s r t) (hne : t.errcnt ≠ s.errcnt) :
    r.op = .read ∧ (s.phase = .resp ∨ s.phase = .check ∨ s.phase = .commit) := by
  cases hturn with
  | respond hp hop => exact ⟨hop, .inl hp⟩
  | judge hp hop => exact ⟨hop, .inr (.inl hp)⟩
  | commit hp hop => exact ⟨hop, .inr (.inr hp)⟩
  | configure | frame | command | settle | recover | finish => simp at hne

/-- A whole locked request that changes the counter is a READ. -/
theorem read_of_requestBody_errcnt {i : Instr} {c : Nat} {s : State} (hl : i.takesLock = true)
    (hne : (requestBody i c s).errcnt ≠ s.errcnt) : ∃ addr len out, i = .read addr len out := by
  cases i <;> cases hl
  case read addr len out => exact ⟨addr, len, out, rfl⟩
  all_goals simp [requestBody] at hne

/-- A decoded READ carries the OUT of its call (R89). -/
theorem out_of_decodeRequest {word : ReqWord} {out out' : Nat} {addr : RegAddr} {len : Byte}
    (h : decodeRequest word out = .ok (.read addr len out')) : out' = out := by
  unfold decodeRequest at h
  split_ifs at h <;> cases h
  rfl

/-- Settles O52: of all a step can do, only a READ's turn and a whole READ change the counter. -/
theorem counterWritersAreReads : Obligations.CounterWritersAreReads := by
  intro s t h hstep hne
  obtain hq | ⟨hmove, hturn⟩ | ⟨c, call, i, hmove, hg, rfl⟩ | ⟨c, call, i, -, -, rfl⟩ := step_cases hstep
  · exact absurd hq.errcnt hne
  · obtain ⟨-, rfl⟩ | ⟨r, hr, hof⟩ := turn_cases ((Quiet.of_moveTaken s).blockInv h) hturn
    · exact absurd rfl hne
    · obtain ⟨hop, hphase⟩ := read_of_turnOf_errcnt hof hne
      exact .inl ⟨hmove, ⟨r, hr, hop⟩, hphase⟩
  · obtain ⟨addr, len, out, rfl⟩ := read_of_requestBody_errcnt hg.locks hne
    have hd := hg.decoded
    rw [out_of_decodeRequest hd] at hd
    exact .inr ⟨c, call, addr, len, hmove, hg.free, hg.waiting, hd⟩
  · exact absurd rfl hne

end Sys2Proof.Proofs
end

section
/-! PROOF. A placed word is what the next step runs (O34). -/

namespace Sys2Proof.Proofs

open Sys2Proof.Machine Sys2Proof.Laws

/-! ### A request word -/

theorem waitingCall_setPending {s : State} {c : Nat} (hc : c < s.callers.length) (call : Call) :
    waitingCall (setPending c call s) c = some call := by
  simp [waitingCall, hc]

/-- A placed request stands at the port of caller 0, and the next step serves it. -/
theorem step_placeRequest {s : State} {call : Call} {i : Instr} (hc : 0 < s.callers.length)
    (hd : decodeRequest call.word call.out = .ok i) :
    step (placeRequest call s) = exec i (selectCaller 0 (setPending 0 call s)) := by
  have htaken : moveTaken (placeRequest call s) = setPending 0 call s :=
    moveTaken_listed (.serve 0) (setPending 0 call s)
  rw [step_eq_serveCaller (c := 0) rfl, htaken]
  exact withWaiting_of_decoded exec (waitingCall_setPending hc call) hd

theorem decodeRequest_of_decode? {word : ReqWord} {out : Nat} {i : Instr} (h : decode? (.request word out) = some i) :
    decodeRequest word out = .ok i := by
  cases hd : decodeRequest word out with
  | error r => simp [decode?, decode, hd] at h
  | ok j => simpa [decode?, decode, hd] using h

/-! ### A frame or an action -/

/-- The packet is no request word. -/
def NotRequestWord (p : Packet) : Prop := ∀ word out, p ≠ .request word out

/-- Only a request word decodes to a request. -/
theorem isRequest_eq_false_of_decode? {p : Packet} {i : Instr} (hp : NotRequestWord p) (h : decode? p = some i) :
    i.isRequest = false := by
  cases p with
  | request word out => exact absurd rfl (hp word out)
  | command bytes =>
    match bytes with
    | [b0, b1, b2] =>
      have hi : i = decodeCommand b0 b1 b2 := by simpa [decode?, decode] using h.symm
      subst hi
      unfold decodeCommand
      split <;> rfl
    | [] | [_] | [_, _] | _ :: _ :: _ :: _ :: _ => simp [decode?, decode] at h
  | response len bytes =>
    simp only [decode?, decode, decodeResponse] at h
    split_ifs at h
    cases h
    rfl
  | action tag arg =>
    simp only [decode?, decode, decodeAction] at h
    split_ifs at h <;> cases h <;> rfl

/-- A placed frame or action is what the engine's next turn runs, and with no request in progress nothing follows it. -/
theorem step_placeAction {s : State} {i : Instr} (hi : i.isRequest = false) (hr : s.req = none) :
    step (placeAction i s) = exec i s := by
  have htaken : moveTaken (placeAction i s) = setTodo (i :: s.todo) s :=
    moveTaken_listed .engine (setTodo (i :: s.todo) s)
  have hrest : setTodo s.todo (actionEffect i s) = actionEffect i s := (actionEffect_setTodo i s.todo s).symm
  rw [step_eq_engineTurn rfl, htaken, engineTurn_of_action i hi, hrest, afterAction_of_no_request (by simpa),
    exec_of_action hi]

theorem placePacket_of_notRequestWord {p : Packet} {i : Instr} (hp : NotRequestWord p) (h : decode? p = some i)
    (s : State) : placePacket p s = placeAction i s := by
  cases p with
  | request word out => exact absurd rfl (hp word out)
  | command bytes => simp [placePacket, placePacket.placeDecoded, h]
  | response len bytes => simp [placePacket, placePacket.placeDecoded, h]
  | action tag arg => simp [placePacket, placePacket.placeDecoded, h]

/-! ### Table words -/

/-- Only 32 bits of a table row are a request word. -/
theorem notRequestWord_of_tablePacket {nbits w : Nat} {p : Packet} (hn : nbits ≠ 32)
    (h : tablePacket nbits w = some p) : NotRequestWord p := by
  rintro word out rfl
  unfold tablePacket at h
  split at h <;> simp_all

/-- Settles O34: a request word is served for caller 0, a frame or an action is run by the engine's turn. -/
theorem placedWordIsRun : Obligations.PlacedWordIsRun := by
  refine ⟨fun s w i hc hd => ?_, fun s nbits w i hn hr hd => ?_⟩
  · exact step_placeRequest (call := { word := BitVec.ofNat 32 w, out := 0 }) hc (decodeRequest_of_decode? hd)
  · unfold decodeTableWord at hd
    cases hp : tablePacket nbits w with
    | none => simp [hp] at hd
    | some p =>
      have hword := notRequestWord_of_tablePacket hn hp
      have hdec : decode? p = some i := by simpa [hp] using hd
      have hplace : s.withFetchWord nbits w = placePacket p s := by simp [State.withFetchWord, hp]
      rw [hplace, placePacket_of_notRequestWord hword hdec]
      exact step_placeAction (isRequest_eq_false_of_decode? hword hdec) hr

end Sys2Proof.Proofs
end

section
/-! PROOF. The engine ends a request in progress (O54): each turn ends it, or leaves fewer turns to come. -/

namespace Sys2Proof.Proofs

open Sys2Proof.Machine Sys2Proof.Laws

/-! ### How many turns a request has to come -/

/-- The turns that may follow the next one before the request in progress ends. -/
def laterTurns (s : State) : Nat :=
  match s.phase with
  | .cmd => 8 + s.todo.tail.length
  | .settle => 7
  | .resp => 6
  | .check => 5
  | .recover => s.todo.tail.length
  | .idle => 0
  | .config => 0
  | .commit => 0
  | .final => 0

theorem length_recoveryActions_le (p : Params) : (recoveryActions p).length ≤ 5 := by
  cases hreconf : p.reconfigOnReinit <;> simp [recoveryActions, hreconf]

theorem laterTurns_le {s : State} {r : Request} (h : PhasePoint s r) : laterTurns s ≤ 9 := by
  cases hp : s.phase <;> simp only [laterTurns, hp] <;> simp only [PhasePoint, hp] at h
  case cmd => obtain ⟨-, -, ht | ⟨ht, -⟩⟩ := h <;> simp [ht]
  case recover =>
    obtain ⟨-, -, hpoint⟩ := h
    have hlen := length_recoveryActions_le s.params
    obtain ht | ⟨ht, -⟩ | ⟨ht, -⟩ | ⟨-, ht, -⟩ | ⟨ht, -⟩ := hpoint <;> simp [ht] <;> omega
  all_goals omega

/-! ### What one turn does to the request in progress -/

/-- The request `r` has ended between `s` and `t` with exactly one result for its caller. -/
def Ended (r : Request) (s t : State) : Prop := ∃ x, ReleasedWith s t r.caller x

/-- The request `r` is still in progress at `t`, no caller has got a result, and fewer turns are to come. -/
def Advanced (r : Request) (s t : State) : Prop :=
  t.req = some r ∧ t.callers = s.callers ∧ laterTurns t < laterTurns s

theorem Ended.of_callers_eq {r : Request} {s u t : State} (h : Ended r u t) (hc : u.callers = s.callers) :
    Ended r s t := by
  obtain ⟨x, hx⟩ := h
  exact ⟨x, by simpa only [ReleasedWith, resultsOf, viewOf, hc] using hx⟩

theorem advanced_afterVerdict {s : State} {r : Request} (hr : s.req = some r) (hp : s.phase = .check)
    (payload : List Byte) (trailer : Byte) :
    Advanced r s (afterVerdict r (setTodo [] (validateResponse payload trailer s))) := by
  by_cases hv : (setTodo [] (validateResponse payload trailer s)).verdict = some .valid
  · rw [afterVerdict_valid hv]
    exact ⟨by simpa, by simp, by simp [laterTurns, hp]⟩
  · rw [afterVerdict_mismatch hv]
    have hlen := length_recoveryActions_le s.params
    exact ⟨by simpa, by simp, by simp [laterTurns, hp]; omega⟩

section Turn

variable {s : State} {r : Request} (hr : s.req = some r) (hc : r.caller < s.callers.length)
include hc

theorem ended_release {t : State} (x : Result) (h : t.callers = s.callers := by simp) :
    Ended r s (release r.caller x t) :=
  ⟨x, releasedWith_release s t r.caller x h hc⟩

theorem ended_raiseFault {t : State} (e : FatalReason) (h : t.callers = s.callers := by simp) :
    Ended r s (raiseFault r.caller e t) :=
  ⟨fatalResult e, releasedWith_raiseFault s t r.caller e h hc⟩

theorem ended_afterConfigure {t : State} (h : t.callers = s.callers := by simp) : Ended r s (afterConfigure r t) := by
  unfold afterConfigure
  split
  · exact ended_release hc .ok h
  · exact ended_raiseFault hc .busConfigError h

include hr

theorem ended_or_advanced_afterCommand (hp : s.phase = .cmd) (hop : r.op = .write ∨ r.op = .read) :
    Ended r s (afterCommand r (setTodo [] (busWriteBytes s).2)) ∨
      Advanced r s (afterCommand r (setTodo [] (busWriteBytes s).2)) := by
  by_cases hn : lastWritten (setTodo [] (busWriteBytes s).2) = Config.cmdLen
  · rcases hop with hop | hop
    · rw [afterCommand_write hop hn]
      exact .inl (ended_release hc .ok)
    · rw [afterCommand_read hop hn]
      exact .inr ⟨by simpa, by simp, by simp [laterTurns, hp]; omega⟩
  · rw [afterCommand_short hn]
    exact .inl (ended_release hc .writeError)

theorem ended_or_advanced_afterResponse (hp : s.phase = .resp) (k : Nat) :
    Ended r s (afterResponse r (setTodo [] (busReadBytes k s).2)) ∨
      Advanced r s (afterResponse r (setTodo [] (busReadBytes k s).2)) := by
  by_cases hn : (setTodo [] (busReadBytes k s).2).rn = responseLength r.data
  · rw [afterResponse_full _ _ hn]
    exact .inr ⟨by simpa, by simp, by simp [laterTurns, hp]⟩
  · rw [afterResponse_short _ _ hn]
    exact .inl (ended_release hc .readError)

theorem ended_or_advanced_afterRecovery (hp : s.phase = .recover) {i : Instr} {rest : List Instr}
    (ht : s.todo = i :: rest) :
    Ended r s (afterRecovery r (setTodo rest (actionEffect i s))) ∨
      Advanced r s (afterRecovery r (setTodo rest (actionEffect i s))) := by
  cases hok : lastStatus (setTodo rest (actionEffect i s)) with
  | false =>
    rw [afterRecovery_failed hok]
    exact .inl (ended_raiseFault hc .resetError)
  | true =>
    cases rest with
    | nil =>
      rw [afterRecovery_done hok rfl]
      exact .inl (ended_release hc .checksumError)
    | cons j rest =>
      rw [afterRecovery_more hok (by simp)]
      exact .inr ⟨by simpa, by simp, by simp [laterTurns, hp, ht]⟩

end Turn

/-- Under the invariant a turn ends the request in progress or advances it. -/
theorem engineTurn_ends_or_advances {s : State} {r : Request} (h : BlockInv s) (hr : s.req = some r) :
    ∃ t, engineTurn s = .next t ∧ (Ended r s t ∨ Advanced r s t) := by
  obtain ⟨-, hc, hpoint⟩ := point_of_request h hr
  obtain ⟨t, hturn, hof⟩ := exists_turnOf h hr
  refine ⟨t, hturn, ?_⟩
  cases hof with
  | configure => exact .inl (ended_afterConfigure hc)
  | frame hp hop =>
    simp only [PhasePoint, hp] at hpoint
    obtain ⟨-, -, ht | ⟨ht, -⟩⟩ := hpoint
    · exact .inr ⟨by simpa, by simp, by simp [laterTurns, hp, ht]⟩
    · rw [engineTurn_eq_setTodo ht, engineTurn_command hr hp] at hturn
      injection hturn with heq
      exact heq ▸ ended_or_advanced_afterCommand hr hc hp hop
  | command hp hop => exact ended_or_advanced_afterCommand hr hc hp hop
  | settle hp => exact .inr ⟨by simpa [afterSettle], by simp [afterSettle], by simp [afterSettle, laterTurns, hp]⟩
  | respond hp => exact ended_or_advanced_afterResponse hr hc hp _
  | judge hp => exact .inr (advanced_afterVerdict hr hp _ _)
  | recover hp _ _ ht => exact ended_or_advanced_afterRecovery hr hc hp ht
  | commit => exact .inl (ended_release hc _)
  | finish => exact .inl (ended_release hc _)

/-! ### The run to the end -/

theorem engineReaches_ended {n : Nat} {s : State} {r : Request} (h : BlockInv s) (hr : s.req = some r)
    (hn : laterTurns s ≤ n) : ∃ t, EngineReaches (n + 1) s t ∧ Ended r s t := by
  obtain ⟨u, hturn, hend | ⟨hru, hcallers, hless⟩⟩ := engineTurn_ends_or_advances h hr
  · exact ⟨u, .turn hturn (.refl _ u), hend⟩
  · obtain ⟨m, rfl⟩ : ∃ m, n = m + 1 := ⟨n - 1, by omega⟩
    obtain ⟨t, hreach, hend⟩ := engineReaches_ended (n := m) (blockInv_of_engineTurn h hturn) hru (by omega)
    exact ⟨t, .turn hturn hreach, hend.of_callers_eq hcallers⟩

/-- Settles O54: at most nine turns follow the next one, and the last of them releases the lock with one result. -/
theorem engineFinishesRequest : Obligations.EngineFinishesRequest := by
  intro s r h hr
  obtain ⟨-, -, hpoint⟩ := point_of_request h hr
  obtain ⟨t, ⟨k, hk, hrun⟩, x, hlock, hreq, hphase, -, hresults, hpending, -, hothers⟩ :=
    engineReaches_ended h hr (laterTurns_le hpoint)
  exact ⟨k, t, x, hk, hrun, hlock, hreq, hphase, hpending, hresults, hothers⟩

end Sys2Proof.Proofs
end

section
/-! SUPPORT. The step of Propagate, and a locked request under a held lock (spec/20_memory.md R73, R79). -/

namespace Sys2Proof.Proofs

open Sys2Proof.Machine Sys2Proof.Laws

theorem step_eq_propagateTo {s : State} {d : Nat} (h : nextMove s = .propagate d) :
    step s = .next (propagateTo d (moveTaken s)) := by
  simp [step, h, makeMove]

theorem lockedRequest_of_held {s : State} {d : Nat} (hc : s.caller < s.callers.length) (hl : s.lock = .held d)
    (i : Instr) (body : Nat → State → State) : lockedRequest i body s = .next s := by
  simp [lockedRequest, hc, hl]

end Sys2Proof.Proofs
end

section
/-! PROOF. The lock: a request waits while it is held (O28), a grant takes the free lock (O37), and other agents leave
its holder alone (O49). -/

namespace Sys2Proof.Proofs

open Sys2Proof.Machine Sys2Proof.Laws

/-- Settles O28: a request that takes the lock is a locked request, which waits. -/
theorem lockedRequestWaits : Obligations.LockedRequestWaits := by
  intro s i d hc htakes hl
  rw [exec_of_takesLock htakes]
  exact lockedRequest_of_held hc hl i _

/-- A grant by `acquire` is the locked request of the waiting call, carried on by listing its first actions. -/
theorem step_of_acquire {s : State} {c : Nat} {call : Call} {i : Instr} (hmove : nextMove s = .acquire c)
    (hw : waitingCall s c = some call) (hd : decodeRequest call.word call.out = .ok i) (hl : i.takesLock = true) :
    step s = lockedRequest i (fun _ t => setTodo (openingActions i) t) (selectCaller c (moveTaken s)) := by
  rw [step_eq_acquireCaller hmove, acquireCaller, withWaiting_of_decoded beginRequest (s := moveTaken s) hw hd,
    beginRequest_of_takesLock hl]

/-- Settles O37: under a held lock the locked request waits; on a free one it is carried on from acquire. -/
theorem acquireTakesLock : Obligations.AcquireTakesLock := by
  intro s c call i hmove hw hd htakes
  rw [step_of_acquire hmove hw hd htakes]
  have hc : c < s.callers.length := waitingCall_lt hw
  refine ⟨fun d hheld => lockedRequest_of_held (s := selectCaller c (moveTaken s)) hc hheld i _,
    fun hfree hadm => ?_⟩
  rw [lockedRequest_admitted i _ (selectCaller c (moveTaken s)) hc hfree hadm]
  cases i <;> cases htakes
  case init => exact ⟨_, _, rfl, fun _ => ⟨rfl, rfl⟩, nofun, nofun, nofun, rfl⟩
  case write => exact ⟨_, _, rfl, nofun, by rintro _ _ ⟨⟩; exact ⟨rfl, rfl⟩, nofun, nofun, rfl⟩
  case read => exact ⟨_, _, rfl, nofun, nofun, by rintro _ _ _ ⟨⟩; exact ⟨rfl, rfl⟩, nofun, rfl⟩
  case shutdown => exact ⟨_, _, rfl, nofun, nofun, nofun, fun _ => ⟨rfl, rfl⟩, rfl⟩

theorem Grantable.lock_ne_held {s : State} {c d : Nat} {call : Call} {i : Instr} (hg : Grantable s c call i) :
    s.lock ≠ .held d := by
  simp [hg.free]

/-- Settles O49: under a held lock nothing is granted, so a step that is not the engine's is quiet. -/
theorem lockIsolatesRequest : Obligations.LockIsolatesRequest := by
  intro s t c hheld hmove hstep
  obtain hq | ⟨hengine, -⟩ | ⟨_, _, _, -, hg, -⟩ | ⟨_, _, _, -, hg, -⟩ := step_cases hstep
  · exact ⟨hq.lock, hq.req, hq.phase, hq.todo, hq.estate, hq.chan, hq.errcnt, hq.cmd, hq.resp, hq.rn, hq.verdict,
      hq.bustrace, hq.diagtrace, hq.mem, hq.fault⟩
  · exact absurd hengine hmove
  · exact absurd hheld hg.lock_ne_held
  · exact absurd hheld hg.lock_ne_held

end Sys2Proof.Proofs
end

section
/-! PROOF. TraceFlag and its views (O36, O38, O39): only SET_LOGGING writes TraceFlag, and only it and Propagate write a
view (spec/20_memory.md R79). -/

namespace Sys2Proof.Proofs

open Sys2Proof.Machine Sys2Proof.Laws

/-! ### What leaves TraceFlag and the views alone -/

/-- TraceFlag and every view are at `t` as they are at `s`. -/
def SameLogging (s t : State) : Prop := t.trace = s.trace ∧ ∀ d, viewOf t d = viewOf s d

theorem SameLogging.refl (s : State) : SameLogging s s := ⟨rfl, fun _ => rfl⟩

theorem SameLogging.trans {s t u : State} (h : SameLogging s t) (h' : SameLogging t u) : SameLogging s u :=
  ⟨h'.1.trans h.1, fun d => (h'.2 d).trans (h.2 d)⟩

theorem viewOf_updateCaller_same {s : State} {c : Nat} (hc : c < s.callers.length) (f : Caller → Caller) {b : Bool}
    (hf : ∀ k, (f k).tview = b) : viewOf (updateCaller c f s) c = b := by
  simp [viewOf, hc, hf]

/-- An update that sets one view to `b` leaves every view at `b` or as it was. -/
theorem viewOf_updateCaller_cases {f : Caller → Caller} {b : Bool} (hf : ∀ k, (f k).tview = b) (c : Nat) (s : State)
    (d : Nat) : viewOf (updateCaller c f s) d = b ∨ viewOf (updateCaller c f s) d = viewOf s d := by
  simp only [viewOf, updateCaller_callers, List.getElem?_modify]
  cases s.callers[d]? with
  | none => exact .inr rfl
  | some k => by_cases hcd : c = d <;> simp [hcd, hf]

theorem viewOf_updateCaller_of_tview {f : Caller → Caller} (hf : ∀ k, (f k).tview = k.tview) (c : Nat) (s : State)
    (d : Nat) : viewOf (updateCaller c f s) d = viewOf s d := by
  simp only [viewOf, updateCaller_callers, List.getElem?_modify]
  cases s.callers[d]? with
  | none => rfl
  | some k => by_cases hcd : c = d <;> simp [hcd, hf]

@[simp] theorem deliver_viewOf (c : Nat) (x : Result) (s : State) (d : Nat) :
    viewOf (deliver c x s) d = viewOf s d :=
  viewOf_updateCaller_of_tview (by intro; rfl) c s d

@[simp] theorem release_viewOf (c : Nat) (x : Result) (s : State) (d : Nat) :
    viewOf (release c x s) d = viewOf s d := deliver_viewOf c x _ d

@[simp] theorem raiseFault_viewOf (c : Nat) (e : FatalReason) (s : State) (d : Nat) :
    viewOf (raiseFault c e s) d = viewOf s d := release_viewOf c _ _ d

@[simp] theorem refuse_viewOf (c : Nat) (r : Reason) (s : State) (d : Nat) :
    viewOf (refuse c r s) d = viewOf s d :=
  viewOf_updateCaller_of_tview (by intro; rfl) c _ d

@[simp] theorem setPending_viewOf (c : Nat) (call : Call) (s : State) (d : Nat) :
    viewOf (setPending c call s) d = viewOf s d :=
  viewOf_updateCaller_of_tview (by intro; rfl) c s d

/-! ### Requests and actions -/

theorem sameLogging_initBody (c : Nat) (s : State) : SameLogging s (initBody c s) := by
  cases hok : (s.answerAt 0).ok <;> simp [SameLogging, initBody, hok]

theorem sameLogging_writeBody (addr : RegAddr) (value : Byte) (c : Nat) (s : State) :
    SameLogging s (writeBody addr value c s) := by
  simp [SameLogging, writeBody]

theorem sameLogging_shutdownBody (c : Nat) (s : State) : SameLogging s (shutdownBody c s) := by
  simp [SameLogging, shutdownBody]

theorem sameLogging_commitRead (len : Byte) (out c : Nat) (s : State) : SameLogging s (commitRead len out c s) := by
  simp [SameLogging, commitRead]

theorem sameLogging_reinitialize (s : State) : SameLogging s (reinitialize s).2 := by
  unfold reinitialize
  dsimp only
  split_ifs <;> simp [SameLogging]

theorem sameLogging_recoverRead (c : Nat) (s : State) : SameLogging s (recoverRead c s) := by
  rw [recoverRead_eq_recoverRest, recoverRest]
  have hrecovered := sameLogging_reinitialize
    (setEstate .recovering (setPhase .recover (throttle c .checksumError (countError s))))
  split
  · exact hrecovered.trans (by simp [SameLogging])
  · exact hrecovered.trans (by simp [SameLogging])

theorem sameLogging_checkRead (len : Byte) (out c : Nat) (s : State) : SameLogging s (checkRead len out c s) := by
  unfold checkRead
  dsimp only
  split
  · exact SameLogging.trans (by simp [SameLogging]) (sameLogging_commitRead len out c _)
  · exact SameLogging.trans (by simp [SameLogging]) (sameLogging_recoverRead c _)

theorem sameLogging_readBody (addr : RegAddr) (len : Byte) (out c : Nat) (s : State) :
    SameLogging s (readBody addr len out c s) := by
  unfold readBody
  dsimp only
  split_ifs
  · exact SameLogging.trans (by simp [SameLogging]) (sameLogging_checkRead len out c _)
  · simp [SameLogging]
  · simp [SameLogging]

theorem sameLogging_requestBody {i : Instr} (hl : i.takesLock = true) (c : Nat) (s : State) :
    SameLogging s (requestBody i c s) := by
  cases i <;> cases hl
  case init => exact sameLogging_initBody c s
  case write addr value => exact sameLogging_writeBody addr value c s
  case read addr len out => exact sameLogging_readBody addr len out c s
  case shutdown => exact sameLogging_shutdownBody c s

theorem sameLogging_actionEffect (i : Instr) (s : State) : SameLogging s (actionEffect i s) := by
  cases i <;> exact .refl s

theorem sameLogging_afterAction (i : Instr) (s : State) : SameLogging s (afterAction i s) := by
  unfold afterAction
  cases s.req with
  | none => exact .refl s
  | some r =>
    cases s.phase
    case config =>
      dsimp only [afterConfigure]
      split <;> simp [SameLogging]
    case cmd =>
      dsimp only [afterCommand]
      cases r.op <;> split_ifs <;> simp [SameLogging]
    case settle => simp [SameLogging, afterSettle]
    case resp =>
      dsimp only [afterResponse]
      split <;> simp [SameLogging]
    case check =>
      dsimp only [afterVerdict]
      split <;> simp [SameLogging]
    case recover =>
      dsimp only [afterRecovery]
      split_ifs <;> simp [SameLogging]
    all_goals exact .refl s

theorem sameLogging_silentPhase (s : State) : SameLogging s (silentPhase s) := by
  unfold silentPhase
  cases s.req with
  | none => exact .refl s
  | some r =>
    cases s.phase
    case commit => exact sameLogging_commitRead _ _ _ s
    case final => exact sameLogging_shutdownBody _ s
    all_goals exact .refl s

theorem sameLogging_of_lockedRequest {i : Instr} {body : Nat → State → State}
    (hbody : ∀ c s, SameLogging s (body c s)) {s t : State} (h : lockedRequest i body s = .next t) :
    SameLogging s t := by
  obtain ⟨hf, -⟩ | ⟨hw, -, -⟩ | ⟨r, hr, -, -, -⟩ | ⟨hb, -, -, -⟩ := lockedRequest_cases i body s
  · rw [hf] at h; cases h
  · rw [hw] at h; cases h; exact .refl s
  · rw [hr] at h; cases h; simp [SameLogging]
  · rw [hb] at h; cases h; exact hbody s.caller (acquireLock s.caller i s)

/-! ### A view that shows TraceFlag -/

/-- A view that shows TraceFlag at `s` shows it at `t`, unless TraceFlag has changed. -/
def ViewsKeepUp (s t : State) : Prop := ∀ d, viewOf s d = s.trace → t.trace = s.trace → viewOf t d = t.trace

theorem SameLogging.viewsKeepUp {s t : State} (h : SameLogging s t) : ViewsKeepUp s t := by
  obtain ⟨htrace, hview⟩ := h
  intro d hd _
  rw [hview, htrace, hd]

theorem SameLogging.trans_viewsKeepUp {s t u : State} (h : SameLogging s t) (h' : ViewsKeepUp t u) :
    ViewsKeepUp s u := by
  obtain ⟨htrace, hview⟩ := h
  intro d hd hu
  exact h' d (by rw [hview, htrace, hd]) (by rw [hu, htrace])

theorem ViewsKeepUp.trans_sameLogging {s t u : State} (h : ViewsKeepUp s t) (h' : SameLogging t u) :
    ViewsKeepUp s u := by
  obtain ⟨htrace, hview⟩ := h'
  intro d hd hu
  rw [hview, htrace]
  exact h d hd (by rw [← htrace, hu])

/-- Setting one view to TraceFlag, new or old, lets the views keep up. -/
theorem viewsKeepUp_updateCaller {f : Caller → Caller} {s t : State} (hf : ∀ k, (f k).tview = t.trace)
    (hview : ∀ d, viewOf t d = viewOf s d) (c : Nat) : ViewsKeepUp s (updateCaller c f t) := by
  intro d hd ht
  rcases viewOf_updateCaller_cases hf c t d with h | h
  · exact h
  · rw [h, hview, hd, ht]

theorem viewsKeepUp_propagateTo (d : Nat) (s : State) : ViewsKeepUp s (propagateTo d s) :=
  viewsKeepUp_updateCaller (fun _ => rfl) (fun _ => rfl) d

theorem viewsKeepUp_setTrace (c : Nat) (enable : Bool) (s : State) : ViewsKeepUp s (setTrace c enable s) :=
  viewsKeepUp_updateCaller (s := s) (t := { s with trace := enable }) (fun _ => rfl) (fun _ => rfl) c

/-- SET_LOGGING has no step, or writes TraceFlag and its caller's view. -/
theorem viewsKeepUp_of_execSetLogging {enable : Bool} {s t : State} (h : execSetLogging enable s = .next t) :
    ViewsKeepUp s t := by
  unfold execSetLogging at h
  split at h
  · by_cases he : s.estate = .faulted
    · simp only [he, admitLogging] at h
      cases h
      exact (SameLogging.refl s).viewsKeepUp
    · simp only [admitLogging_of_not_faulted he] at h
      cases h
      exact (viewsKeepUp_setTrace s.caller enable s).trans_sameLogging (by simp [SameLogging])
  · cases h

theorem viewsKeepUp_of_exec {i : Instr} {s t : State} (h : exec i s = .next t) : ViewsKeepUp s t := by
  cases hi : i.isRequest with
  | false =>
    rw [exec_of_action hi] at h
    cases h
    exact (sameLogging_actionEffect i s).viewsKeepUp
  | true =>
    cases hl : i.takesLock with
    | false =>
      obtain ⟨enable, rfl⟩ := eq_setLogging_of_not_takesLock hi hl
      exact viewsKeepUp_of_execSetLogging h
    | true =>
      rw [exec_of_takesLock hl] at h
      exact (sameLogging_of_lockedRequest (sameLogging_requestBody hl) h).viewsKeepUp

theorem viewsKeepUp_of_beginRequest {i : Instr} {s t : State} (h : beginRequest i s = .next t) : ViewsKeepUp s t := by
  unfold beginRequest at h
  split at h
  · have hsame := sameLogging_of_lockedRequest (body := fun _ u => setTodo (openingActions i) u) (fun _ u => .refl u) h
    exact hsame.viewsKeepUp
  · exact viewsKeepUp_of_exec h

theorem viewsKeepUp_of_withWaiting {c : Nat} {run : Instr → State → Host.Outcome State Fault Refusal}
    (hrun : ∀ {i s t}, run i s = .next t → ViewsKeepUp s t) {s t : State} (h : withWaiting c run s = .next t) :
    ViewsKeepUp s t := by
  obtain ⟨hn, -⟩ | ⟨call, r, -, -, hr⟩ | ⟨call, i, -, -, hi⟩ := withWaiting_cases c run s
  · rw [hn] at h; cases h; exact (SameLogging.refl s).viewsKeepUp
  · rw [hr] at h; cases h; exact SameLogging.viewsKeepUp (by simp [SameLogging])
  · rw [hi] at h
    exact SameLogging.trans_viewsKeepUp (by simp [SameLogging]) (hrun h)

theorem viewsKeepUp_of_issueRequest {c : Nat} {word : ReqWord} {out : Nat} {s t : State}
    (h : issueRequest c word out s = .next t) : ViewsKeepUp s t := by
  obtain ⟨hn, -⟩ | ⟨r, -, -, hr⟩ | ⟨i, -, -, -, hp⟩ | ⟨i, -, -, -, hi⟩ := issueRequest_cases c word out s
  · rw [hn] at h; cases h; exact (SameLogging.refl s).viewsKeepUp
  · rw [hr] at h; cases h; exact SameLogging.viewsKeepUp (by simp [SameLogging])
  · rw [hp] at h; cases h; exact SameLogging.viewsKeepUp (by simp [SameLogging])
  · rw [hi] at h
    exact SameLogging.trans_viewsKeepUp (by simp [SameLogging]) (viewsKeepUp_of_exec h)

theorem viewsKeepUp_of_engineTurn {s t : State} (h : engineTurn s = .next t) : ViewsKeepUp s t := by
  cases ht : s.todo with
  | nil =>
    have hsilent : t = silentPhase s := by simpa [engineTurn, ht] using h.symm
    exact hsilent ▸ (sameLogging_silentPhase s).viewsKeepUp
  | cons i rest =>
    rw [engineTurn_of_todo ht] at h
    obtain ⟨u, hexec, rfl⟩ := continueWith_next h
    exact (viewsKeepUp_of_exec (s := setTodo rest s) hexec).trans_sameLogging (sameLogging_afterAction i u)

/-- Settles O38: each move of each agent lets the views keep up. -/
theorem currentViewStaysCurrent : Obligations.CurrentViewStaysCurrent := by
  intro s t d _ hview hstep htrace
  suffices hmove : ViewsKeepUp (moveTaken s) t from hmove d hview htrace
  cases hm : nextMove s with
  | issue c word out => exact viewsKeepUp_of_issueRequest ((step_eq_issueRequest hm).symm.trans hstep)
  | serve c => exact viewsKeepUp_of_withWaiting viewsKeepUp_of_exec ((step_eq_serveCaller hm).symm.trans hstep)
  | acquire c =>
    exact viewsKeepUp_of_withWaiting viewsKeepUp_of_beginRequest ((step_eq_acquireCaller hm).symm.trans hstep)
  | engine => exact viewsKeepUp_of_engineTurn ((step_eq_engineTurn hm).symm.trans hstep)
  | propagate e =>
    rw [step_eq_propagateTo hm] at hstep
    cases hstep
    exact viewsKeepUp_propagateTo e _

/-! ### Propagate -/

/-- Settles O36: the step is the update of one caller's view. -/
theorem propagateCopiesFlag : Obligations.PropagateCopiesFlag := by
  intro s d hm hd
  refine ⟨(propagateTo d s).callers, step_eq_propagateTo hm, ?_, fun c hc => ?_⟩
  · exact updateCaller_same d _ s
  · exact updateCaller_other d c _ s hc

/-- The number of callers stays along a run (R46). -/
theorem callersLength_of_execution {sched : Nat → Move} {run : Nat → State} (h : Execution sched run) (k : Nat) :
    (run k).callers.length = (run 0).callers.length := by
  induction k with
  | zero => rfl
  | succ k ih =>
    obtain ⟨-, -, -, -, -, -, hlen⟩ := recordsOnlyGrow _ _ (h k)
    exact hlen.trans ih

/-- Settles O39: the first step of Propagate into the view copies the value that stays. -/
theorem stayingFlagReachesView : Obligations.StayingFlagReachesView := by
  intro sched run d enable hrun hfair hd htrace
  obtain ⟨k, -, hk⟩ := hfair 0
  have hstep := hrun k
  rw [step_eq_propagateTo (d := d) (by simp [nextMove, hk])] at hstep
  injection hstep with hnext
  refine ⟨k + 1, ?_⟩
  rw [← hnext]
  exact viewOf_updateCaller_same ((callersLength_of_execution hrun k).symm ▸ hd) _ fun _ => htrace k

end Sys2Proof.Proofs
end

section
/-! SUPPORT. The decoder of request words, one rule for each OP of spec/30_encoding.md R90, and what the fields of a
word that decodes say of it (R89, R91). -/

namespace Sys2Proof.Proofs

open Sys2Proof.Laws

/-! ### The fields -/

/-- Every OP is one of the five of R90, or is listed nowhere. -/
theorem op_cases (op : Byte) :
    op = 1#8 ∨ op = 2#8 ∨ op = 3#8 ∨ op = 4#8 ∨ op = 5#8 ∨ (op = 0#8 ∨ 6 ≤ op.toNat) := by
  bv_omega

/-- R91: an address byte is refused exactly from 128 on. -/
theorem addrValid_eq_false_iff (a : Byte) : addrValid a = false ↔ 128 ≤ a.toNat := by
  rw [addrValid, decide_eq_false_iff_not, Config.addrMax]
  omega

/-- R90: the enable operand D is 0 or 1 exactly where its bits 7 to 1 are clear. -/
theorem enableBits_eq_zero_iff (d : Byte) : d.extractLsb' 1 7 = 0#7 ↔ d.toNat < 2 := by
  revert d
  decide

/-- R90: with bits 7 to 1 clear, D is its own bit 0. -/
theorem enableByte_of_bits {d : Byte} (h : d.extractLsb' 1 7 = 0#7) : (if d.getLsbD 0 then 1#8 else 0#8) = d := by
  revert d
  decide

/-- A word is assembled from what its fields are. -/
theorem reqWord_eq {w : ReqWord} {op a d : Byte} (hop : reqOp w = op) (ha : reqA w = a) (hd : reqD w = d)
    (hz : reqZ w = 0#8) : reqWord op a d = w := by
  subst hop ha hd
  exact reqWord_fields w hz

/-! ### The decoder, OP by OP -/

section Op

variable {w : ReqWord} (out : Nat)

theorem decodeRequest_of_init (hop : reqOp w = 1#8) : decodeRequest w out =
    if reqA w = 0#8 ∧ reqD w = 0#8 ∧ reqZ w = 0#8 then .ok .init else .error .reservedBits := by
  simp [decodeRequest, hop]

theorem decodeRequest_of_write (hop : reqOp w = 2#8) : decodeRequest w out =
    if reqZ w ≠ 0#8 then .error .reservedBits
    else if addrValid (reqA w) = false then .error .addrRange
    else .ok (.write ((reqA w).setWidth 7) (reqD w)) := by
  simp [decodeRequest, hop]

theorem decodeRequest_of_read (hop : reqOp w = 3#8) : decodeRequest w out =
    if reqZ w ≠ 0#8 then .error .reservedBits
    else if addrValid (reqA w) = false then .error .addrRange
    else if reqD w = 0#8 then .error .lenRange
    else .ok (.read ((reqA w).setWidth 7) (reqD w) out) := by
  simp [decodeRequest, hop]

theorem decodeRequest_of_shutdown (hop : reqOp w = 4#8) : decodeRequest w out =
    if reqA w = 0#8 ∧ reqD w = 0#8 ∧ reqZ w = 0#8 then .ok .shutdown else .error .reservedBits := by
  simp [decodeRequest, hop]

theorem decodeRequest_of_setLogging (hop : reqOp w = 5#8) : decodeRequest w out =
    if reqA w = 0#8 ∧ (reqD w).extractLsb' 1 7 = 0#7 ∧ reqZ w = 0#8 then .ok (.setLogging ((reqD w).getLsbD 0))
    else .error .reservedBits := by
  simp [decodeRequest, hop]

theorem decodeRequest_of_unlisted (hop : reqOp w = 0#8 ∨ 6 ≤ (reqOp w).toNat) :
    decodeRequest w out = .error .badOp := by
  have h1 : reqOp w ≠ 1#8 := by bv_omega
  have h2 : reqOp w ≠ 2#8 := by bv_omega
  have h3 : reqOp w ≠ 3#8 := by bv_omega
  have h4 : reqOp w ≠ 4#8 := by bv_omega
  have h5 : reqOp w ≠ 5#8 := by bv_omega
  simp [decodeRequest, h1, h2, h3, h4, h5]

end Op

end Sys2Proof.Proofs
end

section
/-! PROOF. Decoding inverts encoding (O1), kind of packet by kind of packet. -/

namespace Sys2Proof.Proofs

open Sys2Proof.Laws

/-! ### Requests (spec/30_encoding.md R89 to R91) -/

theorem decode_request {w : ReqWord} {out : Nat} {i : Instr} (h : decodeRequest w out = .ok i) :
    decode (.request w out) = .ok i := by
  simp [decode, h]

theorem decodeRequest_write (addr : RegAddr) (value : Byte) (out : Nat) :
    decodeRequest (reqWord 2#8 (addr.setWidth 8) value) out = .ok (.write addr value) := by
  simp [decodeRequest_of_write]

/-- R92: only a READ of length 0 is left out. -/
theorem decodeRequest_read (addr : RegAddr) {len : Byte} (hlen : len ≠ 0#8) (out : Nat) :
    decodeRequest (reqWord 3#8 (addr.setWidth 8) len) out = .ok (.read addr len out) := by
  simp [decodeRequest_of_read, hlen]

theorem decodeRequest_setLogging (enable : Bool) (out : Nat) :
    decodeRequest (reqWord 5#8 0#8 (if enable then 1#8 else 0#8)) out = .ok (.setLogging enable) := by
  cases enable <;> simp [decodeRequest_of_setLogging]

/-! ### Frames (R85 to R87) -/

theorem decodeCommand_marked (addr : RegAddr) (value c : Byte) :
    decodeCommand (addr.setWidth 8 ||| Config.writeFlag) value c = .writeCmd addr value c := by
  obtain ⟨haddr, hmark, -⟩ := marked_address addr
  simp only [decodeCommand, hmark, haddr, if_true]

theorem decodeCommand_unmarked (addr : RegAddr) (len c : Byte) :
    decodeCommand (addr.setWidth 8) len c = .readCmd addr len c := by
  simp [decodeCommand]

/-- R87: a response frame of 1 to 255 payload bytes splits into its payload and its trailing byte. -/
theorem decodeResponse_append {payload : List Byte}
    (h : Config.lenMin ≤ payload.length ∧ payload.length ≤ Config.lenMax) (trailer : Byte) :
    decodeResponse payload.length (payload ++ [trailer]) = .ok (.response payload trailer) := by
  simp [decodeResponse, h]

/-- Settles O1: each kind of packet is read back, a request by its OP, a command frame by bit 7 of its first byte, a
response by its length, an action by its tag. Well-formedness is needed for the length of a READ and of a response. -/
theorem decodeInvertsEncode : Obligations.DecodeInvertsEncode := by
  intro i hwf
  cases i with
  | init => exact decode_request (by simp [decodeRequest_of_init])
  | write addr value => exact decode_request (decodeRequest_write addr value 0)
  | read addr len out => exact decode_request (decodeRequest_read addr (of_decide_eq_true hwf) out)
  | shutdown => exact decode_request (by simp [decodeRequest_of_shutdown])
  | setLogging enable => exact decode_request (decodeRequest_setLogging enable 0)
  | writeCmd addr value c => exact congrArg Except.ok (decodeCommand_marked addr value c)
  | readCmd addr len c => exact congrArg Except.ok (decodeCommand_unmarked addr len c)
  | response payload trailer => exact decodeResponse_append (of_decide_eq_true hwf) trailer
  | configure | writeBytes | delay us | readBytes k | closeBus | openBus => rfl

end Sys2Proof.Proofs
end

section
/-! PROOF. The request words: which are refused, and why (O3), that the others are encodings (O2), and words written out
from the spec (O4). -/

namespace Sys2Proof.Proofs

open Sys2Proof.Laws

/-! ### The refused words -/

section Op

variable {w : ReqWord} (out : Nat) {r : Reason}

theorem decodeRequest_eq_error_iff_of_noOperand (hop : reqOp w = 1#8 ∨ reqOp w = 4#8) :
    decodeRequest w out = .error r ↔ r = .reservedBits ∧ (reqZ w ≠ 0#8 ∨ reqA w ≠ 0#8 ∨ reqD w ≠ 0#8) := by
  obtain hop | hop := hop
  · rw [decodeRequest_of_init out hop]
    grind
  · rw [decodeRequest_of_shutdown out hop]
    grind

theorem decodeRequest_eq_error_iff_of_write (hop : reqOp w = 2#8) :
    decodeRequest w out = .error r ↔
      (r = .reservedBits ∧ reqZ w ≠ 0#8) ∨ (r = .addrRange ∧ reqZ w = 0#8 ∧ 128 ≤ (reqA w).toNat) := by
  simp only [decodeRequest_of_write out hop, addrValid_eq_false_iff]
  grind

theorem decodeRequest_eq_error_iff_of_read (hop : reqOp w = 3#8) :
    decodeRequest w out = .error r ↔
      (r = .reservedBits ∧ reqZ w ≠ 0#8) ∨ (r = .addrRange ∧ reqZ w = 0#8 ∧ 128 ≤ (reqA w).toNat) ∨
      (r = .lenRange ∧ reqZ w = 0#8 ∧ (reqA w).toNat < 128 ∧ reqD w = 0#8) := by
  simp only [decodeRequest_of_read out hop, addrValid_eq_false_iff]
  grind

theorem decodeRequest_eq_error_iff_of_setLogging (hop : reqOp w = 5#8) :
    decodeRequest w out = .error r ↔
      r = .reservedBits ∧ (reqZ w ≠ 0#8 ∨ reqA w ≠ 0#8 ∨ 2 ≤ (reqD w).toNat) := by
  simp only [decodeRequest_of_setLogging out hop, enableBits_eq_zero_iff]
  grind

theorem decodeRequest_eq_error_iff_of_unlisted (hop : reqOp w = 0#8 ∨ 6 ≤ (reqOp w).toNat) :
    decodeRequest w out = .error r ↔ r = .badOp := by
  rw [decodeRequest_of_unlisted out hop]
  simp [eq_comm]

end Op

/-- Settles O3: the OP decides which refusals a word can have, and each clause is read off there. -/
theorem refusedRequestWords : Obligations.RefusedRequestWords := by
  intro w out
  obtain hop | hop | hop | hop | hop | hop := op_cases (reqOp w)
  · simp [decodeRequest_eq_error_iff_of_noOperand out (.inl hop), hop]
  · simp [decodeRequest_eq_error_iff_of_write out hop, hop]
  · simp [decodeRequest_eq_error_iff_of_read out hop, hop]
  · simp [decodeRequest_eq_error_iff_of_noOperand out (.inr hop), hop]
  · simp [decodeRequest_eq_error_iff_of_setLogging out hop, hop]
  · have hlow : 1 ≤ (reqOp w).toNat → ¬ (reqOp w).toNat ≤ 5 := by bv_omega
    have hwrite : reqOp w ≠ 2#8 := by bv_omega
    have hread : reqOp w ≠ 3#8 := by bv_omega
    simp +contextual [decodeRequest_eq_error_iff_of_unlisted out hop, hop, hlow, hwrite, hread]

/-! ### The other words -/

/-- Settles O2: each OP puts its operands where the encoder does, and the fields it does not use are 0. -/
theorem requestWordIsItsEncoding : Obligations.RequestWordIsItsEncoding := by
  intro w out i hdec
  refine ⟨isRequest_of_decodeRequest hdec, ?_⟩
  obtain hop | hop | hop | hop | hop | hop := op_cases (reqOp w)
  · rw [decodeRequest_of_init out hop] at hdec
    split_ifs at hdec with h
    obtain ⟨ha, hd, hz⟩ := h
    cases hdec
    exact ⟨rfl, nofun, fun _ => congrArg (Packet.request · 0) (reqWord_eq hop ha hd hz)⟩
  · rw [decodeRequest_of_write out hop] at hdec
    split_ifs at hdec with hz ha
    have haddr := address_of_valid (reqA w) (by simpa using ha)
    cases hdec
    exact ⟨rfl, nofun, fun _ =>
      congrArg (Packet.request · 0) (reqWord_eq hop haddr.symm rfl (not_not.mp hz))⟩
  · rw [decodeRequest_of_read out hop] at hdec
    split_ifs at hdec with hz ha hlen
    have haddr := address_of_valid (reqA w) (by simpa using ha)
    cases hdec
    refine ⟨decide_eq_true hlen, fun a l o hread => ⟨?_, ?_⟩, fun hne => absurd rfl (hne _ _ _)⟩
    · cases hread
      rfl
    · exact congrArg (Packet.request · out) (reqWord_eq hop haddr.symm rfl (not_not.mp hz))
  · rw [decodeRequest_of_shutdown out hop] at hdec
    split_ifs at hdec with h
    obtain ⟨ha, hd, hz⟩ := h
    cases hdec
    exact ⟨rfl, nofun, fun _ => congrArg (Packet.request · 0) (reqWord_eq hop ha hd hz)⟩
  · rw [decodeRequest_of_setLogging out hop] at hdec
    split_ifs at hdec with h
    obtain ⟨ha, hd, hz⟩ := h
    cases hdec
    exact ⟨rfl, nofun, fun _ =>
      congrArg (Packet.request · 0) (reqWord_eq hop ha (enableByte_of_bits hd).symm hz)⟩
  · rw [decodeRequest_of_unlisted out hop] at hdec
    cases hdec

/-! ### Words from the spec -/

/-- Settles O4: fourteen closed words, each decoded. -/
theorem specWordsDecode : Obligations.SpecWordsDecode := by
  unfold Obligations.SpecWordsDecode
  decide

end Sys2Proof.Proofs
end

section
/-! PROOF. An issued word that the encoding check refuses (O35, spec/42_engine_ops.md R150 (2), log entry 9). -/

namespace Sys2Proof.Proofs

open Sys2Proof.Machine Sys2Proof.Laws

theorem lt_of_mayIssue {s : State} {c : Nat} (h : mayIssue s c = true) : c < s.callers.length := by
  unfold mayIssue at h
  split at h
  next k hk => exact (List.getElem?_eq_some_iff.mp hk).1
  next => cases h

/-- R150 (2): a word that the encoding check refuses is left pending and refused. -/
theorem issueRequest_of_error {s : State} {c : Nat} {word : ReqWord} {out : Nat} {r : Reason}
    (hm : mayIssue s c = true) (hd : decodeRequest word out = .error r) :
    issueRequest c word out s = .next (refuse c r (setPending c { word := word, out := out } s)) := by
  simp [issueRequest, hm, hd]

/-- A refused caller has no request that may take a step (R196). -/
theorem waitingCall_refuse (c : Nat) (r : Reason) (s : State) : waitingCall (refuse c r s) c = none := by
  cases hc : s.callers[c]? <;> simp [waitingCall, hc]

/-- A refusal leaves the request pending (R196). -/
theorem pendingOf_refuse (c : Nat) (r : Reason) (s : State) (d : Nat) : pendingOf (refuse c r s) d = pendingOf s d := by
  simp only [pendingOf, refuse_callers, List.getElem?_modify]
  cases s.callers[d]? with
  | none => rfl
  | some k => by_cases hcd : c = d <;> simp [hcd]

theorem pendingOf_setPending {s : State} {c : Nat} (hc : c < s.callers.length) (call : Call) :
    pendingOf (setPending c call s) c = some call := by
  simp [pendingOf, hc]

theorem resultsOf_refuse (c : Nat) (r : Reason) (s : State) (d : Nat) : resultsOf (refuse c r s) d = resultsOf s d :=
  resultsOf_updateCaller (by intro; rfl) c _ d

theorem resultsOf_setPending (c : Nat) (call : Call) (s : State) (d : Nat) :
    resultsOf (setPending c call s) d = resultsOf s d :=
  resultsOf_updateCaller (by intro; rfl) c s d

/-- Settles O35: the step is the refusal of the request just put at the port, and each of the two changes one caller. -/
theorem issueRefusesBadWord : Obligations.IssueRefusesBadWord := by
  intro s c word out r hmove hm hd
  have hstep := step_eq_issueRequest hmove
  rw [issueRequest_of_error (by simpa using hm) hd] at hstep
  refine ⟨_, hstep, rfl, rfl, ?pending, waitingCall_refuse c r _, fun d => ⟨?results, ?view⟩, fun d hne => ?other,
    fun _ => rfl, rfl, rfl, rfl, rfl, rfl, rfl, rfl, rfl, rfl, rfl, rfl, rfl, rfl, rfl, rfl⟩
  case pending =>
    rw [pendingOf_refuse]
    exact pendingOf_setPending (lt_of_mayIssue hm) _
  case results => rw [resultsOf_refuse, resultsOf_setPending, moveTaken_resultsOf]
  case view => rw [refuse_viewOf, setPending_viewOf, moveTaken_viewOf]
  case other => simp [hne.symm]

end Sys2Proof.Proofs
end

section
/-! PROOF. The wire frames: the two command-frame builders, CHECK_CK and the response check (O5 to O10,
spec/40_checksum_frames.md R110, R113 to R119). -/

namespace Sys2Proof.Proofs

open Sys2Proof.Machine Sys2Proof.Laws

/-! ### The command frames -/

theorem exec_writeCmd (addr : RegAddr) (value c : Byte) (s : State) :
    exec (.writeCmd addr value c) s = .next (setCmd (writeFrame addr value) s) := rfl

theorem exec_readCmd (addr : RegAddr) (len c : Byte) (s : State) :
    exec (.readCmd addr len c) s = .next (setCmd (readFrame addr len) s) := rfl

theorem writeFrame_b2 (addr : RegAddr) (value : Byte) :
    (writeFrame addr value).b2 = Config.ck [(writeFrame addr value).b0, (writeFrame addr value).b1] := rfl

theorem readFrame_b2 (addr : RegAddr) (len : Byte) :
    (readFrame addr len).b2 = Config.ck [(readFrame addr len).b0, (readFrame addr len).b1] := rfl

/-- Byte 0 of a write frame gives the address back, in its bits 6 to 0. -/
theorem writeFrame_b0_setWidth (addr : RegAddr) (value : Byte) : (writeFrame addr value).b0.setWidth 7 = addr :=
  (marked_address addr).1

/-- A 7-bit address has bit 7 of its byte clear (R117). -/
theorem address_toNat (addr : RegAddr) : (addr.setWidth 8 : Byte).toNat = addr.toNat :=
  BitVec.toNat_setWidth_of_le (by decide)

/-- Settles O5: the step stores the write frame in S.cmd, and the marker adds 128 to the address. -/
theorem writeCmdBuildsFrame : Obligations.WriteCmdBuildsFrame :=
  fun s addr value c => ⟨exec_writeCmd addr value c s, marked_address_toNat addr⟩

/-- Settles O6: the step stores the read frame in S.cmd, and the address fills the low 7 bits of byte 0. -/
theorem readCmdBuildsFrame : Obligations.ReadCmdBuildsFrame :=
  fun s addr len c => ⟨exec_readCmd addr len c s, address_toNat addr⟩

/-- Settles O7: each builder stores a frame that carries CK of its first two bytes. -/
theorem builtFrameCarriesChecksum : Obligations.BuiltFrameCarriesChecksum :=
  fun s addr v c =>
    ⟨⟨_, exec_writeCmd addr v c s, writeFrame_b2 addr v⟩, ⟨_, exec_readCmd addr v c s, readFrame_b2 addr v⟩⟩

/-- Settles O8: byte 0 gives the address back, and byte 1 is the value. -/
theorem writeFrameInjective : Obligations.WriteFrameInjective := by
  intro a a' v v' h0 h1
  have haddr : a = a' := by rw [← writeFrame_b0_setWidth a v, h0, writeFrame_b0_setWidth]
  exact ⟨haddr, h1⟩

/-! ### CHECK_CK and the response check -/

/-- R110: where there is a byte `n`, CHECK_CK compares it with CK of the bytes before it. -/
theorem checkCk_eq_true_iff {l : List Byte} {n : Nat} (hn : n < l.length) :
    checkCk l n = true ↔ Config.ck (l.take n) = l.getD n 0#8 := by
  rw [checkCk, beq_iff_eq, List.getD_eq_getElem?_getD, List.getElem?_eq_getElem hn, Option.some_inj, Option.getD_some,
    eq_comm]

/-- R110: bytes after byte `n` are never read. -/
theorem checkCk_append_of_lt {l : List Byte} {n : Nat} (hn : n < l.length) (extra : List Byte) :
    checkCk (l ++ extra) n = checkCk l n := by
  rw [checkCk, checkCk, List.getElem?_append_left hn, List.take_append_of_le_length hn.le]

theorem exec_response (payload : List Byte) (trailer : Byte) (s : State) :
    exec (.response payload trailer) s = .next (validateResponse payload trailer s) := rfl

/-- Settles O9: the sequence has a byte n, which CHECK_CK compares, and it looks no further. -/
theorem checkCkComparesTrailer : Obligations.CheckCkComparesTrailer := by
  intro l extra n _ hlen
  have hn : n < l.length := by omega
  exact ⟨checkCk_eq_true_iff hn, checkCk_append_of_lt hn extra⟩

/-- Settles O10: the step latches the verdict on the payload with its trailing byte appended. -/
theorem responseGivesVerdict : Obligations.ResponseGivesVerdict := by
  intro s payload trailer
  simp only [exec_response, validateResponse, verdictOf_append, @eq_comm _ trailer]

end Sys2Proof.Proofs
end

section
/-! PROOF. The six bus actions (O11 to O16, spec/41_transport.md R130 to R139). -/

namespace Sys2Proof.Proofs

open Sys2Proof.Machine Sys2Proof.Laws

/-- Settles O11: the step is the CONFIGURE operation, whose record is that of R8. -/
theorem configureAction : Obligations.ConfigureAction := fun s => exec_of_action (i := .configure) rfl s

/-- Settles O12: the step is the WRITE_BYTES operation on the three bytes of S.cmd. -/
theorem writeBytesAction : Obligations.WriteBytesAction := fun s => exec_of_action (i := .writeBytes) rfl s

/-- Settles O13: the step only appends to the bus trace. -/
theorem delayAction : Obligations.DelayAction := fun s us => exec_of_action (i := .delay us) rfl s

/-- Settles O14: the answer is fitted to `k` bytes, and the step is the READ_BYTES operation that stores them. -/
theorem readBytesAction : Obligations.ReadBytesAction :=
  fun s k => ⟨length_bytesAt s 0 k, exec_of_action (i := .readBytes k) rfl s⟩

/-- Settles O15: the step is the CLOSE operation, which draws no answer. -/
theorem closeAction : Obligations.CloseAction := fun s => exec_of_action (i := .closeBus) rfl s

/-- Settles O16: the step is the OPEN operation. -/
theorem openAction : Obligations.OpenAction := fun s => exec_of_action (i := .openBus) rfl s

end Sys2Proof.Proofs
end

section
/-! SUPPORT. A READ carried out whole, outcome by outcome (spec/42_engine_ops.md R162), and what REINITIALIZE changes
and leaves (spec/41_transport.md R140). -/

namespace Sys2Proof.Proofs

open Sys2Proof.Machine Sys2Proof.Laws

/-- A locked request in an admitted state, with the lock free, is carried out whole. -/
theorem exec_of_admitted {i : Instr} {s : State} (hl : i.takesLock = true) (hc : s.caller < s.callers.length)
    (hfree : s.lock = .free) (hadm : admitRequest i s.estate = .admitted) :
    exec i s = .next (requestBody i s.caller (acquireLock s.caller i s)) := by
  rw [exec_of_takesLock hl, lockedRequest_admitted i _ s hc hfree hadm]

@[simp] theorem acquireLock_answerAt (c : Nat) (i : Instr) (s : State) (j : Nat) :
    (acquireLock c i s).answerAt j = s.answerAt j := rfl

@[simp] theorem countedOnce_acquireLock (c : Nat) (i : Instr) (s : State) :
    countedOnce (acquireLock c i s) = countedOnce s := rfl

@[simp] theorem throttledTrace_acquireLock (d : Nat) (i : Instr) (s : State) (c : Nat) (kind : DiagKind) (k : Nat) :
    throttledTrace (acquireLock d i s) c kind k = throttledTrace s c kind k := rfl

/-! ### What the parts of a request do to the bus trace -/

@[simp] theorem commitRead_bustrace (len : Byte) (out c : Nat) (s : State) :
    (commitRead len out c s).bustrace = s.bustrace := by
  simp [commitRead]

@[simp] theorem shutdownBody_bustrace (c : Nat) (s : State) : (shutdownBody c s).bustrace = s.bustrace := by
  simp [shutdownBody]

theorem initBody_bustrace (c : Nat) (s : State) :
    (initBody c s).bustrace = s.bustrace ++ [.configure s.params.busConfig (s.answerAt 0).ok] := by
  cases hok : (s.answerAt 0).ok <;> simp [initBody, hok]

theorem writeBody_bustrace (addr : RegAddr) (value : Byte) (c : Nat) (s : State) :
    (writeBody addr value c s).bustrace =
      s.bustrace ++ [.writeBytes (writeFrame addr value).bytes (s.answerAt 0).n] := by
  simp [writeBody]

@[simp] theorem afterConfigure_bustrace (r : Request) (s : State) : (afterConfigure r s).bustrace = s.bustrace := by
  unfold afterConfigure
  split <;> simp

@[simp] theorem afterRecovery_bustrace (r : Request) (s : State) : (afterRecovery r s).bustrace = s.bustrace := by
  unfold afterRecovery
  split_ifs <;> simp

/-! ### REINITIALIZE -/

/-- The state but for what a bus action that stores nothing writes: the channel and the bus trace, with the answers
drawn. -/
def apartFromBus (s : State) : State :=
  { s with chan := .unconfigured, bustrace := [], answers := [], draws := 0 }

@[simp] theorem apartFromBus_busClose (s : State) : apartFromBus (busClose s) = apartFromBus s := rfl
@[simp] theorem apartFromBus_busDelay (us : Nat) (s : State) : apartFromBus (busDelay us s) = apartFromBus s := rfl
@[simp] theorem apartFromBus_busOpen (s : State) : apartFromBus (busOpen s).2 = apartFromBus s := rfl
@[simp] theorem apartFromBus_busConfigure (s : State) : apartFromBus (busConfigure s).2 = apartFromBus s := rfl

/-- REINITIALIZE writes nothing else. -/
theorem apartFromBus_reinitialize (s : State) : apartFromBus (reinitialize s).2 = apartFromBus s := by
  unfold reinitialize
  dsimp only
  split_ifs <;> simp

section Unchanged

variable (s : State)

@[simp] theorem reinitialize_params : (reinitialize s).2.params = s.params :=
  (congrArg State.params (apartFromBus_reinitialize s) :)
@[simp] theorem reinitialize_errcnt : (reinitialize s).2.errcnt = s.errcnt :=
  (congrArg State.errcnt (apartFromBus_reinitialize s) :)
@[simp] theorem reinitialize_trace : (reinitialize s).2.trace = s.trace :=
  (congrArg State.trace (apartFromBus_reinitialize s) :)
@[simp] theorem reinitialize_callers : (reinitialize s).2.callers = s.callers :=
  (congrArg State.callers (apartFromBus_reinitialize s) :)
@[simp] theorem reinitialize_refused : (reinitialize s).2.refused = s.refused :=
  (congrArg State.refused (apartFromBus_reinitialize s) :)
@[simp] theorem reinitialize_reasons : (reinitialize s).2.reasons = s.reasons :=
  (congrArg State.reasons (apartFromBus_reinitialize s) :)
@[simp] theorem reinitialize_cmd : (reinitialize s).2.cmd = s.cmd :=
  (congrArg State.cmd (apartFromBus_reinitialize s) :)
@[simp] theorem reinitialize_resp : (reinitialize s).2.resp = s.resp :=
  (congrArg State.resp (apartFromBus_reinitialize s) :)
@[simp] theorem reinitialize_rn : (reinitialize s).2.rn = s.rn :=
  (congrArg State.rn (apartFromBus_reinitialize s) :)
@[simp] theorem reinitialize_diagtrace : (reinitialize s).2.diagtrace = s.diagtrace :=
  (congrArg State.diagtrace (apartFromBus_reinitialize s) :)
@[simp] theorem reinitialize_mem : (reinitialize s).2.mem = s.mem :=
  (congrArg State.mem (apartFromBus_reinitialize s) :)

end Unchanged

/-- REINITIALIZE fails: OPEN answers fail, or the CONFIGURE after it does. -/
def RecoveryFails (s : State) : Prop :=
  (s.answerAt 0).ok = false ∨
    ((s.answerAt 0).ok = true ∧ s.params.reconfigOnReinit = true ∧ (s.answerAt 1).ok = false)

theorem recoverRest_of_failed {s : State} (h : RecoveryFails s) (c : Nat) :
    recoverRest c s = raiseFault c .resetError (reinitialize s).2 := by
  have hfail : (reinitialize s).1 = false := reinitialize_fails s (h.imp_right fun ⟨_, hp, hc⟩ => ⟨hp, hc⟩)
  simp [recoverRest, hfail]

theorem reinitialize_chan_of_failed {s : State} (h : RecoveryFails s) :
    (reinitialize s).2.chan = if (s.answerAt 0).ok then .opened else .closed := by
  obtain ho | ⟨ho, hp, hc⟩ := h
  · simp [reinitialize, ho]
  · simp [reinitialize, ho, hp, hc]

/-- A failed recovery ends with the action that failed: the post-delay is not issued. -/
theorem reinitialize_bustrace_of_failed {s : State} (h : RecoveryFails s) :
    (reinitialize s).2.bustrace = s.bustrace ++
      [.closeBus, .delay Config.tReinitPreUs, .openBus (s.answerAt 0).ok] ++
      (if (s.answerAt 0).ok then [.configure s.params.busConfig false] else []) := by
  obtain ho | ⟨ho, hp, hc⟩ := h
  · simp [reinitialize, ho]
  · simp [reinitialize, ho, hp, hc]

/-! ### The response -/

/-- What follows the response in the buffer does not matter for the payload. -/
theorem payloadOf_append {bytes : List Byte} {len : Byte} (h : len.toNat < bytes.length) (rest : List Byte) :
    payloadOf (bytes ++ rest) len = payloadOf bytes len :=
  List.take_append_of_le_length h.le

theorem trailerOf_append {bytes : List Byte} {len : Byte} (h : len.toNat < bytes.length) (rest : List Byte) :
    trailerOf (bytes ++ rest) len = trailerOf bytes len :=
  List.getD_append _ _ _ _ h

/-- The response that a READ from acquire on receives: its command write draws the first answer, READ_BYTES the
second. -/
def responseOf (len : Byte) (s : State) : List Byte := s.bytesAt 1 (responseLength len)

@[simp] theorem responseOf_acquireLock (len : Byte) (c : Nat) (i : Instr) (s : State) :
    responseOf len (acquireLock c i s) = responseOf len s := rfl

theorem toNat_lt_length_responseOf (len : Byte) (s : State) : len.toNat < (responseOf len s).length := by
  simp [responseOf, responseLength]

/-- The trailing byte of the response is CK of its payload (R110, R119). -/
def ResponseValid (len : Byte) (s : State) : Prop :=
  trailerOf (responseOf len s) len = Config.ck (payloadOf (responseOf len s) len)

/-- A response with another trailing byte than CK of its payload is not valid. -/
theorem not_responseValid {s : State} {len : Byte} {payload : List Byte} {trailer : Byte}
    (hresp : responseOf len s = payload ++ [trailer]) (hne : trailer ≠ Config.ck payload) : ¬ ResponseValid len s := by
  obtain ⟨-, hpayload, htrailer⟩ := response_parts (length_bytesAt s 1 _) hresp []
  rw [List.append_nil] at hpayload htrailer
  rwa [ResponseValid, responseOf, responseLength, hpayload, htrailer]

/-! ### A READ up to its response, and on into RECOVER -/

/-- A READ whose command was written in full, with the response in its buffer. -/
def answeredRead (addr : RegAddr) (len : Byte) (s : State) : State :=
  (busReadBytes (responseLength len) (setPhase .resp (busDelay Config.tSettleUs (setPhase .settle
    (busWriteBytes (setCmd (readFrame addr len) s)).2)))).2

/-- Such a READ with the verdict on its response. -/
def checkedRead (addr : RegAddr) (len : Byte) (s : State) : State :=
  validateResponse (payloadOf (responseOf len s) len) (trailerOf (responseOf len s) len)
    (setPhase .check (answeredRead addr len s))

/-- Such a READ of caller `c` after a checksum mismatch, its recovery still to come. -/
def mismatchedRead (addr : RegAddr) (len : Byte) (c : Nat) (s : State) : State :=
  setEstate .recovering (setPhase .recover (throttle c .checksumError (countError (checkedRead addr len s))))

@[simp] theorem answeredRead_resp (addr : RegAddr) (len : Byte) (s : State) :
    (answeredRead addr len s).resp = responseOf len s ++ s.resp.drop (responseLength len) := by
  simp [answeredRead, responseOf]

@[simp] theorem answeredRead_bustrace (addr : RegAddr) (len : Byte) (s : State) :
    (answeredRead addr len s).bustrace = s.bustrace ++
      [.writeBytes (readFrame addr len).bytes (s.answerAt 0).n, .delay Config.tSettleUs,
        .readBytes (responseLength len) (s.answerAt 1).n (responseOf len s)] := by
  simp [answeredRead, responseOf]

theorem checkedRead_eq (addr : RegAddr) (len : Byte) (s : State) :
    checkedRead addr len s =
      validateResponse (payloadOf (answeredRead addr len s).resp len) (trailerOf (answeredRead addr len s).resp len)
        (setPhase .check (answeredRead addr len s)) := by
  have hlen := toNat_lt_length_responseOf len s
  rw [answeredRead_resp, payloadOf_append hlen, trailerOf_append hlen]
  rfl

/-! ### What a READ that enters RECOVER has left -/

section Mismatched

variable (addr : RegAddr) (len : Byte) (c : Nat) (s : State)

@[simp] theorem mismatchedRead_params : (mismatchedRead addr len c s).params = s.params := by
  simp [mismatchedRead, checkedRead, answeredRead]
@[simp] theorem mismatchedRead_trace : (mismatchedRead addr len c s).trace = s.trace := by
  simp [mismatchedRead, checkedRead, answeredRead]
@[simp] theorem mismatchedRead_callers : (mismatchedRead addr len c s).callers = s.callers := by
  simp [mismatchedRead, checkedRead, answeredRead]
@[simp] theorem mismatchedRead_refused : (mismatchedRead addr len c s).refused = s.refused := by
  simp [mismatchedRead, checkedRead, answeredRead]
@[simp] theorem mismatchedRead_reasons : (mismatchedRead addr len c s).reasons = s.reasons := by
  simp [mismatchedRead, checkedRead, answeredRead]
@[simp] theorem mismatchedRead_mem : (mismatchedRead addr len c s).mem = s.mem := by
  simp [mismatchedRead, checkedRead, answeredRead]
@[simp] theorem mismatchedRead_cmd : (mismatchedRead addr len c s).cmd = readFrame addr len := by
  simp [mismatchedRead, checkedRead, answeredRead]
@[simp] theorem mismatchedRead_rn : (mismatchedRead addr len c s).rn = (s.answerAt 1).n := by
  simp [mismatchedRead, checkedRead, answeredRead]
@[simp] theorem mismatchedRead_resp :
    (mismatchedRead addr len c s).resp = responseOf len s ++ s.resp.drop (responseLength len) := by
  simp [mismatchedRead, checkedRead]
@[simp] theorem mismatchedRead_bustrace :
    (mismatchedRead addr len c s).bustrace = (answeredRead addr len s).bustrace := by
  simp [mismatchedRead, checkedRead]
@[simp] theorem mismatchedRead_errcnt : (mismatchedRead addr len c s).errcnt = countedOnce s := by
  simp [mismatchedRead, checkedRead, answeredRead, countedOnce]
@[simp] theorem mismatchedRead_answerAt (i : Nat) : (mismatchedRead addr len c s).answerAt i = s.answerAt (i + 2) := by
  simp [mismatchedRead, checkedRead, answeredRead]

/-- The diagnostic of the mismatch, on the count after the increment (R166, R167, R169). -/
@[simp] theorem mismatchedRead_diagtrace :
    (mismatchedRead addr len c s).diagtrace = throttledTrace s c .checksumError (countedOnce s) := by
  have hcount : (countError (checkedRead addr len s)).errcnt = countedOnce s := mismatchedRead_errcnt addr len c s
  rw [mismatchedRead, setEstate_diagtrace, setPhase_diagtrace, throttle_emits, hcount]
  exact throttledTrace_congr (by simp [checkedRead, answeredRead]) (by simp [checkedRead, answeredRead]) _ _ _

end Mismatched

/-! ### The four outcomes of a whole READ -/

section Outcome

variable {s : State} {len : Byte}

theorem readBody_of_command_short (h : (s.answerAt 0).n ≠ Config.cmdLen) (addr : RegAddr) (out c : Nat) :
    readBody addr len out c s = release c .writeError (busWriteBytes (setCmd (readFrame addr len) s)).2 :=
  (readBody_eq_respRest ..).trans (if_neg h)

variable (h₀ : (s.answerAt 0).n = Config.cmdLen) (addr : RegAddr)
include h₀

theorem readBody_of_response_short (h₁ : (s.answerAt 1).n ≠ responseLength len) (out c : Nat) :
    readBody addr len out c s =
      release c .readError (throttle c .readError (countError (answeredRead addr len s))) := by
  rw [readBody_eq_respRest, if_pos h₀, respRest, if_neg (by simpa)]
  rfl

/-- A READ that is answered in full goes on to CHECK. -/
theorem readBody_of_answered (h₁ : (s.answerAt 1).n = responseLength len) (out c : Nat) :
    readBody addr len out c s = checkRead len out c (setPhase .check (answeredRead addr len s)) := by
  rw [readBody_eq_respRest, if_pos h₀, respRest, if_pos (by simpa)]
  rfl

theorem readBody_of_valid (h₁ : (s.answerAt 1).n = responseLength len) (hv : ResponseValid len s) (out c : Nat) :
    readBody addr len out c s = commitRead len out c (setPhase .commit (checkedRead addr len s)) := by
  have hlen := toNat_lt_length_responseOf len s
  rw [readBody_of_answered h₀ addr h₁, checkedRead_eq, checkRead_valid]
  · rfl
  · rwa [setPhase_resp, answeredRead_resp, payloadOf_append hlen, trailerOf_append hlen]

theorem readBody_of_mismatch (h₁ : (s.answerAt 1).n = responseLength len) (hv : ¬ ResponseValid len s) (out c : Nat) :
    readBody addr len out c s = recoverRest c (mismatchedRead addr len c s) := by
  have hlen := toNat_lt_length_responseOf len s
  rw [readBody_of_answered h₀ addr h₁, mismatchedRead, checkedRead_eq, checkRead_mismatch]
  · rfl
  · rwa [setPhase_resp, answeredRead_resp, payloadOf_append hlen, trailerOf_append hlen]

end Outcome

end Sys2Proof.Proofs
end

section
/-! PROOF. A checksum mismatch in a whole READ: its one recovery (O59), and the fatal fault where that fails (O24). -/

namespace Sys2Proof.Proofs

open Sys2Proof.Machine Sys2Proof.Laws

/-! ### The recovery that fails -/

theorem readBody_of_recovery_failed {s : State} {len : Byte} (h₀ : (s.answerAt 0).n = Config.cmdLen)
    (h₁ : (s.answerAt 1).n = responseLength len) (hv : ¬ ResponseValid len s) (addr : RegAddr) (out : Nat) {c : Nat}
    (hfail : RecoveryFails (mismatchedRead addr len c s)) :
    readBody addr len out c s = raiseFault c .resetError (reinitialize (mismatchedRead addr len c s)).2 := by
  rw [readBody_of_mismatch h₀ addr h₁ hv, recoverRest_of_failed hfail]

/-- Settles O24: the READ reaches its recovery, which fails, and the fault keeps what the mismatch has left. -/
theorem readRecoveryFailureIsFatal : Obligations.ReadRecoveryFailureIsFatal := by
  intro s addr len out payload trailer hc hfree hready h₀ h₁ hbytes hne hfail
  have hresp : responseOf len s = payload ++ [trailer] := hbytes
  have hrecovery : RecoveryFails
      (mismatchedRead addr len s.caller (acquireLock s.caller (.read addr len out) s)) := by
    simpa [RecoveryFails] using hfail
  have hexec := exec_of_admitted (i := .read addr len out) rfl hc hfree (by rw [hready]; rfl)
  rw [requestBody, readBody_of_recovery_failed (s := acquireLock _ _ s) h₀ h₁ (not_responseValid hresp hne) addr out
    hrecovery] at hexec
  refine ⟨_, hexec, releasedWith_raiseFault s _ _ _ ?callers hc, ?settings, ?memory, rfl, rfl, ?chan, ?cmd, ?bustrace,
    ?errcnt, ?diagtrace, ?rn, ?resp⟩
  case callers => simp
  case settings => simp [SettingsUnchanged]
  case memory => simp [MemoryUnchanged]
  case chan => simp [reinitialize_chan_of_failed hrecovery]
  case cmd => simp
  case bustrace =>
    simp [reinitialize_bustrace_of_failed hrecovery, hresp, responseLength, h₀, h₁,
      Config.tSettleUs, Config.tReinitPreUs]
  case errcnt => simp
  case diagtrace => simp
  case rn => simp [h₁]
  case resp => simp [hresp, responseLength]

/-! ### One close for a mismatch -/

theorem closeCount_reinitialize (s : State) :
    closeCount (reinitialize s).2.bustrace = closeCount s.bustrace + 1 := by
  unfold reinitialize
  dsimp only
  split_ifs <;> simp [closeCount]

theorem closeCount_recoverRest (c : Nat) (s : State) :
    closeCount (recoverRest c s).bustrace = closeCount s.bustrace + 1 := by
  unfold recoverRest
  split <;> simp [closeCount_reinitialize]

theorem closeCount_answeredRead (addr : RegAddr) (len : Byte) (s : State) :
    closeCount (answeredRead addr len s).bustrace = closeCount s.bustrace := by
  simp [closeCount]

/-- The READ from `s` is answered in full with a wrong trailing byte. -/
def Mismatches (len : Byte) (s : State) : Prop :=
  (s.answerAt 0).n = Config.cmdLen ∧ (s.answerAt 1).n = responseLength len ∧ ¬ ResponseValid len s

theorem closeCount_readBody_of_mismatches {len : Byte} {s : State} (h : Mismatches len s) (addr : RegAddr)
    (out c : Nat) : closeCount (readBody addr len out c s).bustrace = closeCount s.bustrace + 1 := by
  obtain ⟨h₀, h₁, hv⟩ := h
  rw [readBody_of_mismatch h₀ addr h₁ hv, closeCount_recoverRest, mismatchedRead_bustrace, closeCount_answeredRead]

theorem closeCount_readBody_of_not_mismatches {len : Byte} {s : State} (h : ¬ Mismatches len s) (addr : RegAddr)
    (out c : Nat) : closeCount (readBody addr len out c s).bustrace = closeCount s.bustrace := by
  by_cases h₀ : (s.answerAt 0).n = Config.cmdLen
  · by_cases h₁ : (s.answerAt 1).n = responseLength len
    · have hv : ResponseValid len s := by_contra fun hv => h ⟨h₀, h₁, hv⟩
      simp only [readBody_of_valid h₀ addr h₁ hv, commitRead_bustrace, setPhase_bustrace, checkedRead,
        validateResponse_bustrace, closeCount_answeredRead]
    · simp only [readBody_of_response_short h₀ addr h₁, release_bustrace, throttle_bustrace, countError_bustrace,
        closeCount_answeredRead]
  · simp [readBody_of_command_short h₀, closeCount]

theorem closeCount_requestBody {i : Instr} (hl : i.takesLock = true) (hread : ∀ addr len out, i ≠ .read addr len out)
    (c : Nat) (s : State) : closeCount (requestBody i c s).bustrace = closeCount s.bustrace := by
  cases i <;> cases hl
  case init => simp [requestBody, initBody_bustrace, closeCount]
  case write addr value => simp [requestBody, writeBody_bustrace, closeCount]
  case read addr len out => exact absurd rfl (hread addr len out)
  case shutdown => simp [requestBody]

/-- A request other than READ issues no close. -/
theorem closeCount_of_exec {i : Instr} {s t : State} (hi : i.isRequest = true)
    (hread : ∀ addr len out, i ≠ .read addr len out) (hexec : exec i s = .next t) :
    closeCount t.bustrace = closeCount s.bustrace := by
  cases hl : i.takesLock with
  | false =>
    obtain ⟨enable, rfl⟩ := eq_setLogging_of_not_takesLock hi hl
    rw [(quiet_of_execSetLogging hexec).bustrace]
  | true =>
    rw [exec_of_takesLock hl] at hexec
    obtain hq | ⟨-, -, rfl⟩ := quiet_or_carried_of_lockedRequest hexec
    · rw [hq.bustrace]
    · rw [closeCount_requestBody hl hread, acquireLock_bustrace]

/-- Settles O59: a whole READ closes the channel in its recovery alone, which it reaches by a mismatch, and no other
request issues a close. -/
theorem oneRecoveryPerMismatch : Obligations.OneRecoveryPerMismatch := by
  intro s t i hc hfree hready hi hexec
  refine ⟨?read, fun hread => closeCount_of_exec hi hread hexec⟩
  rintro addr len out rfl
  rw [exec_of_admitted rfl hc hfree (by rw [hready]; rfl)] at hexec
  cases hexec
  rw [requestBody]
  split_ifs with h
  · obtain ⟨h₀, h₁, hv⟩ := h
    rw [closeCount_readBody_of_mismatches (s := acquireLock _ _ s) ⟨h₀, h₁, hv ∘ Eq.symm⟩, acquireLock_bustrace]
  · have hmatch : ¬ Mismatches len s := fun ⟨h₀, h₁, hv⟩ => h ⟨h₀, h₁, hv ∘ Eq.symm⟩
    rw [closeCount_readBody_of_not_mismatches (s := acquireLock _ _ s) hmatch, acquireLock_bustrace, Nat.add_zero]

end Sys2Proof.Proofs
end

section
/-! PROOF. Who issues bus actions (O50), and on what channel the transfers among them go (O51). -/

namespace Sys2Proof.Proofs

open Sys2Proof.Machine Sys2Proof.Laws

/-! ### Bus actions need the lock -/

/-- A turn of the engine that issues a bus action is one of an INIT, WRITE or READ. -/
theorem op_of_turnOf_bustrace {s t : State} {r : Request} (hturn : TurnOf s r t) (hne : t.bustrace ≠ s.bustrace) :
    r.op = .init ∨ r.op = .write ∨ r.op = .read := by
  cases hturn with
  | configure _ hop => exact .inl hop
  | frame _ hop | command _ hop => exact .inr hop
  | settle _ hop | respond _ hop | judge _ hop | recover _ hop | commit _ hop => exact .inr (.inr hop)
  | finish => exact absurd (shutdownBody_bustrace r.caller s) hne

/-- Settles O50: of all a step can do, only the turn of a request in progress, which holds the lock, and a request
served whole on the free lock issue a bus action, and neither does for a SHUTDOWN. -/
theorem busActionsNeedLock : Obligations.BusActionsNeedLock := by
  intro s t h hstep hne
  obtain hq | ⟨hmove, hturn⟩ | ⟨c, call, i, hmove, hg, rfl⟩ | ⟨c, call, i, -, -, rfl⟩ := step_cases hstep
  · exact absurd hq.bustrace hne
  · obtain ⟨-, rfl⟩ | ⟨r, hr, hof⟩ := turn_cases ((Quiet.of_moveTaken s).blockInv h) hturn
    · exact absurd rfl hne
    · obtain ⟨hlock, -, -⟩ := point_of_request h hr
      exact .inl ⟨hmove, r, hr, hlock, op_of_turnOf_bustrace hof hne⟩
  · have hshutdown : i ≠ .shutdown := by
      rintro rfl
      exact hne (shutdownBody_bustrace c _)
    exact .inr ⟨c, call, i, hmove, hg.free, hg.waiting, hg.decoded, hg.locks, hshutdown, hg.admitted⟩
  · exact absurd rfl hne

/-! ### Transfers need a configured channel -/

/-- How many transfers of bytes a bus trace holds. -/
def transferCount (l : List BusEvent) : Nat := l.countP isTransfer

theorem transferCount_append_gt {l issued : List BusEvent} (h : issued.any isTransfer = true) :
    transferCount l < transferCount (l ++ issued) := by
  have hpos : 0 < issued.countP isTransfer := List.countP_pos_iff.mpr (List.any_eq_true.mp h)
  rw [transferCount, transferCount, List.countP_append]
  omega

/-- A recovery transfers no bytes (R140). -/
theorem transferCount_of_recoveryPoint {s : State} {i : Instr} {rest : List Instr} (hpoint : RecoveryPoint s)
    (ht : s.todo = i :: rest) : transferCount (actionEffect i s).bustrace = transferCount s.bustrace := by
  obtain hl | ⟨hl, -⟩ | ⟨hl, -⟩ | ⟨-, hl, -⟩ | ⟨hl, -⟩ := hpoint <;>
    obtain ⟨rfl, -⟩ := List.cons.inj (ht.symm.trans hl) <;>
    simp [actionEffect, transferCount, isTransfer]

/-- A turn of the engine that transfers bytes is taken in READY. -/
theorem ready_of_turnOf_transfer {s t : State} {r : Request} (hturn : TurnOf s r t)
    (hne : transferCount t.bustrace ≠ transferCount s.bustrace) : s.estate = .ready := by
  cases hturn with
  | frame _ _ he | command _ _ he | settle _ _ he | respond _ _ he | judge _ _ he | commit _ _ he => exact he
  | configure => simp [transferCount, isTransfer] at hne
  | recover _ _ _ ht hpoint => exact absurd (by simpa using transferCount_of_recoveryPoint hpoint ht) hne
  | finish => simp at hne

/-- An admitted request that transfers bytes is admitted in READY: it is a WRITE or READ (R197). -/
theorem ready_of_requestBody_transfer {i : Instr} {c : Nat} {e : EngineState} {s : State} (hl : i.takesLock = true)
    (hadm : admitRequest i e = .admitted)
    (hne : transferCount (requestBody i c s).bustrace ≠ transferCount s.bustrace) : e = .ready := by
  cases i <;> cases hl
  case write addr value => exact estate_of_admitTransfer hadm
  case read addr len out => exact estate_of_admitTransfer hadm
  case init => simp [requestBody, initBody_bustrace, transferCount, isTransfer] at hne
  case shutdown => simp [requestBody] at hne

/-- A step that transfers bytes is taken in READY. -/
theorem ready_of_step_transfer {s t : State} (h : BlockInv s) (hstep : step s = .next t)
    (hne : transferCount t.bustrace ≠ transferCount s.bustrace) : s.estate = .ready := by
  obtain hq | ⟨-, hturn⟩ | ⟨c, call, i, -, hg, rfl⟩ | ⟨c, call, i, -, -, rfl⟩ := step_cases hstep
  · rw [hq.bustrace] at hne
    exact absurd rfl hne
  · obtain ⟨-, rfl⟩ | ⟨r, -, hof⟩ := turn_cases ((Quiet.of_moveTaken s).blockInv h) hturn
    · exact absurd rfl hne
    · exact ready_of_turnOf_transfer (s := moveTaken s) hof hne
  · exact ready_of_requestBody_transfer hg.locks hg.admitted hne
  · exact absurd rfl hne

/-- Settles O51: a step that transfers bytes is taken in READY, where the channel is configured. -/
theorem transfersNeedConfiguredChannel : Obligations.TransfersNeedConfiguredChannel := by
  intro s t issued h hstep hissued htransfer
  have hgt := transferCount_append_gt (l := s.bustrace) htransfer
  rw [← hissued] at hgt
  exact h.configured (ready_of_step_transfer h hstep hgt.ne')

end Sys2Proof.Proofs
end

section
/-! PROOF. INIT, WRITE, SHUTDOWN and SET_LOGGING, each carried out whole (O17 to O19, O25, O26,
spec/42_engine_ops.md R151 to R157, R170, R172). -/

namespace Sys2Proof.Proofs

open Sys2Proof.Machine Sys2Proof.Laws

/-! ### The state check (R197) -/

theorem admitRequest_init {e : EngineState} (h : e = .uninitialized ∨ e = .ready) :
    admitRequest .init e = .admitted := by
  obtain rfl | rfl := h <;> rfl

theorem admitRequest_shutdown {e : EngineState} (h : e = .uninitialized ∨ e = .ready ∨ e = .terminated) :
    admitRequest .shutdown e = .admitted := by
  obtain rfl | rfl | rfl := h <;> rfl

/-! ### INIT -/

theorem initBody_of_ok {s : State} (hok : (s.answerAt 0).ok = true) (c : Nat) :
    initBody c s = release c .ok (setEstate .ready (busConfigure s).2) := if_pos hok

theorem initBody_of_fail {s : State} (hok : (s.answerAt 0).ok = false) (c : Nat) :
    initBody c s = raiseFault c .busConfigError (busConfigure s).2 := by
  simp [initBody, hok]

/-- Settles O17: INIT is carried on from acquire and ends in a release, after one CONFIGURE that answers ok. -/
theorem initConfigures : Obligations.InitConfigures := by
  intro s hc hfree he hok
  have hexec := exec_of_admitted (i := .init) rfl hc hfree (admitRequest_init he)
  rw [requestBody, initBody_of_ok (s := acquireLock _ _ s) hok] at hexec
  refine ⟨_, hexec, releasedWith_release s _ _ _ rfl hc, ⟨rfl, rfl, rfl, rfl⟩, fun _ => rfl, rfl, ?chan, ?bustrace,
    rfl, rfl, rfl, rfl, rfl, rfl⟩
  case chan => simp [hok]
  case bustrace => simp [hok, Params.busConfig]

/-- Settles O18: INIT is carried on from acquire and ends in the fatal fault, which leaves the channel as the failed
CONFIGURE found it. -/
theorem initFailureIsFatal : Obligations.InitFailureIsFatal := by
  intro s hc hfree he hok
  have hexec := exec_of_admitted (i := .init) rfl hc hfree (admitRequest_init he)
  rw [requestBody, initBody_of_fail (s := acquireLock _ _ s) hok] at hexec
  refine ⟨_, hexec, releasedWith_raiseFault s _ _ _ rfl hc, ⟨rfl, rfl, rfl, rfl⟩, fun _ => rfl, rfl, rfl, ?chan,
    ?bustrace, rfl, rfl, rfl, rfl, rfl⟩
  case chan => simp [hok]
  case bustrace => simp [hok]

/-! ### WRITE -/

/-- Settles O19: WRITE is its frame, one WRITE_BYTES of it, and a release whose result the count decides. -/
theorem writeReturns : Obligations.WriteReturns := by
  intro s addr value hc hfree hready
  have hexec := exec_of_admitted (i := .write addr value) rfl hc hfree (by rw [hready]; rfl)
  rw [requestBody] at hexec
  refine ⟨_, hexec, releasedWith_release s _ _ _ rfl hc, ⟨rfl, rfl, rfl, rfl⟩, fun _ => rfl, hready, rfl, rfl,
    ?bustrace, rfl, rfl, rfl, rfl, rfl⟩
  case bustrace => exact writeBody_bustrace addr value s.caller (acquireLock _ _ s)

/-! ### SHUTDOWN -/

/-- Settles O25: SHUTDOWN sets the engine state and releases. -/
theorem shutdownTerminates : Obligations.ShutdownTerminates := by
  intro s hc hfree he
  have hexec := exec_of_admitted (i := .shutdown) rfl hc hfree (admitRequest_shutdown he)
  exact ⟨_, hexec, releasedWith_release s _ _ _ rfl hc, ⟨rfl, rfl, rfl, rfl⟩, fun _ => rfl, rfl, rfl, rfl, rfl, rfl,
    rfl, rfl, rfl, rfl⟩

/-! ### SET_LOGGING -/

theorem exec_setLogging_of_not_faulted {s : State} (hc : s.caller < s.callers.length) (he : s.estate ≠ .faulted)
    (enable : Bool) : exec (.setLogging enable) s = .next (deliver s.caller .ok (setTrace s.caller enable s)) := by
  simp [exec, execSetLogging, hc, admitLogging_of_not_faulted he]

/-- SET_LOGGING's writes keep everyone's results. -/
@[simp] theorem setTrace_resultsOf (c : Nat) (enable : Bool) (s : State) (d : Nat) :
    resultsOf (setTrace c enable s) d = resultsOf s d :=
  resultsOf_updateCaller (by intro; rfl) c { s with trace := enable } d

theorem setTrace_viewOf_same {s : State} {c : Nat} (hc : c < s.callers.length) (enable : Bool) :
    viewOf (setTrace c enable s) c = enable :=
  viewOf_updateCaller_same (s := { s with trace := enable }) hc _ fun _ => rfl

theorem pendingOf_deliver {s : State} {c : Nat} (hc : c < s.callers.length) (x : Result) :
    pendingOf (deliver c x s) c = none := by
  simp [pendingOf, hc]

/-- Settles O26: SET_LOGGING writes TraceFlag and its caller's view and delivers OK, and each write changes one
caller. -/
theorem setLoggingWritesFlag : Obligations.SetLoggingWritesFlag := by
  intro s enable hc he
  have hc' : s.caller < (setTrace s.caller enable s).callers.length := by simpa
  refine ⟨_, exec_setLogging_of_not_faulted hc he enable, rfl, ?view, ?results, pendingOf_deliver hc' .ok,
    fun d hd => ?other, fun _ => rfl, rfl, rfl, rfl, rfl, rfl, rfl, rfl, rfl, rfl, rfl, rfl, rfl, rfl, rfl, rfl, rfl⟩
  case view => rw [deliver_viewOf, setTrace_viewOf_same hc]
  case results => rw [resultsOf_deliver _ _ _ hc', setTrace_resultsOf]
  case other => simp [hd.symm]

end Sys2Proof.Proofs
end

section
/-! SUPPORT. The recovery that completes (spec/41_transport.md R140), and which bytes a recovery transfers: none. -/

namespace Sys2Proof.Proofs

open Sys2Proof.Machine Sys2Proof.Laws

/-- REINITIALIZE completes: OPEN answers ok, and so does the CONFIGURE after it, if there is one. -/
def RecoveryCompletes (s : State) : Prop :=
  (s.answerAt 0).ok = true ∧ (s.params.reconfigOnReinit = true → (s.answerAt 1).ok = true)

theorem recoveryFails_of_not_completes {s : State} (h : ¬ RecoveryCompletes s) : RecoveryFails s := by
  cases ho : (s.answerAt 0).ok with
  | false => exact .inl ho
  | true => exact .inr ⟨ho, by simpa [RecoveryCompletes, ho] using h⟩

theorem recoverRest_of_completed {s : State} (h : RecoveryCompletes s) (c : Nat) :
    recoverRest c s = release c .checksumError (setEstate .ready (reinitialize s).2) := by
  obtain ⟨ho, hconf⟩ := h
  exact if_pos (reinitialize_completes s ho hconf)

@[simp] theorem reinitialize_fault (s : State) : (reinitialize s).2.fault = s.fault :=
  (congrArg State.fault (apartFromBus_reinitialize s) :)

/-- A recovery that completes leaves the channel configured, by OPEN or by the CONFIGURE after it. -/
theorem reinitialize_chan_of_completed {s : State} (h : RecoveryCompletes s) :
    (reinitialize s).2.chan = .configured := by
  obtain ⟨ho, hconf⟩ := h
  cases hreconf : s.params.reconfigOnReinit with
  | false => simp [reinitialize, ho, hreconf]
  | true => simp [reinitialize, ho, hreconf, hconf]

theorem reinitialize_bustrace_of_completed {s : State} (h : RecoveryCompletes s) :
    (reinitialize s).2.bustrace = s.bustrace ++ [.closeBus, .delay Config.tReinitPreUs, .openBus true] ++
      (if s.params.reconfigOnReinit then [.configure s.params.busConfig true] else []) ++
      [.delay Config.tReinitPostUs] := by
  obtain ⟨ho, hconf⟩ := h
  cases hreconf : s.params.reconfigOnReinit with
  | false => simp [reinitialize, ho, hreconf]
  | true => simp [reinitialize, ho, hreconf, hconf]

/-- Whether it completes or fails, a recovery transfers no bytes. -/
theorem exists_recoveryEvents (s : State) :
    ∃ events, (reinitialize s).2.bustrace = s.bustrace ++ events ∧ events.any isTransfer = false := by
  by_cases h : RecoveryCompletes s
  · rw [reinitialize_bustrace_of_completed h, List.append_assoc, List.append_assoc]
    refine ⟨_, rfl, ?_⟩
    split_ifs <;> rfl
  · rw [reinitialize_bustrace_of_failed (recoveryFails_of_not_completes h), List.append_assoc]
    refine ⟨_, rfl, ?_⟩
    split_ifs <;> rfl

@[simp] theorem recoverRest_bustrace (c : Nat) (s : State) :
    (recoverRest c s).bustrace = (reinitialize s).2.bustrace := by
  unfold recoverRest
  split <;> rfl

end Sys2Proof.Proofs
end

section
/-! PROOF. READ carried out whole, outcome by outcome (O20 to O23), and its settle delay (O60,
spec/42_engine_ops.md R162 to R168). -/

namespace Sys2Proof.Proofs

open Sys2Proof.Machine Sys2Proof.Laws

/-- A READ in READY with the lock free is carried out whole. -/
theorem exec_read {s : State} (hc : s.caller < s.callers.length) (hfree : s.lock = .free) (hready : s.estate = .ready)
    (addr : RegAddr) (len : Byte) (out : Nat) :
    exec (.read addr len out) s =
      .next (readBody addr len out s.caller (acquireLock s.caller (.read addr len out) s)) :=
  exec_of_admitted rfl hc hfree (by rw [hready]; rfl)

/-! ### A short command write and a short response -/

/-- Settles O20: the READ is its frame, one WRITE_BYTES of it, and a release. -/
theorem readCommandShort : Obligations.ReadCommandShort := by
  intro s addr len out hc hfree hready h₀
  have hexec := exec_read hc hfree hready addr len out
  rw [readBody_of_command_short (s := acquireLock _ _ s) h₀] at hexec
  refine ⟨_, hexec, releasedWith_release s _ _ _ rfl hc, ⟨rfl, rfl, rfl, rfl⟩, fun _ => rfl, hready, rfl, rfl,
    ?bustrace, rfl, rfl, rfl, rfl, rfl⟩
  case bustrace => simp

/-- The diagnostic of a failed READ, on the count after the increment (R165, R167, R169). -/
theorem throttle_countError_diagtrace (c : Nat) (kind : DiagKind) (s : State) :
    (throttle c kind (countError s)).diagtrace = throttledTrace s c kind (countedOnce s) := by
  rw [throttle_emits]
  exact throttledTrace_congr rfl rfl _ _ _

/-- Settles O21: the READ, answered, is counted, throttled and released. -/
theorem readShortResponse : Obligations.ReadShortResponse := by
  intro s addr len out hc hfree hready h₀ h₁
  have hexec := exec_read hc hfree hready addr len out
  rw [readBody_of_response_short (s := acquireLock _ _ s) h₀ addr h₁] at hexec
  refine ⟨_, hexec, releasedWith_release s _ _ _ ?callers hc, ?settings, ?memory, ?estate, ?chan, ?cmd, ?bustrace,
    ?errcnt, ?diagtrace, ?fault, ?rn, ?resp⟩
  case callers => simp [answeredRead]
  case settings => simp [SettingsUnchanged, answeredRead]
  case memory => simp [MemoryUnchanged, answeredRead]
  case estate => simpa [answeredRead] using hready
  case bustrace => simp [h₀, responseOf, responseLength, Config.tSettleUs]
  case errcnt => simp [answeredRead, countedOnce]
  case diagtrace =>
    rw [release_diagtrace, throttle_countError_diagtrace]
    exact throttledTrace_congr rfl rfl _ _ _
  case resp => simp [responseOf, responseLength]
  case chan | cmd | fault | rn => simp [answeredRead]

/-! ### A response in full -/

section Response

variable {s : State} {len : Byte} {payload : List Byte} {trailer : Byte}
  (hresp : responseOf len s = payload ++ [trailer])
include hresp

theorem length_payload_of_response : payload.length = len.toNat := by
  obtain ⟨hlen, -, -⟩ := response_parts (length_bytesAt s 1 _) hresp []
  exact hlen

theorem payloadOf_responseOf : payloadOf (responseOf len s) len = payload := by
  obtain ⟨-, hpayload, -⟩ := response_parts (length_bytesAt s 1 _) hresp []
  rwa [List.append_nil] at hpayload

theorem trailerOf_responseOf : trailerOf (responseOf len s) len = trailer := by
  obtain ⟨-, -, htrailer⟩ := response_parts (length_bytesAt s 1 _) hresp []
  rwa [List.append_nil] at htrailer

theorem responseValid_of_trailer (htrailer : trailer = Config.ck payload) : ResponseValid len s := by
  rwa [ResponseValid, payloadOf_responseOf hresp, trailerOf_responseOf hresp]

end Response

/-- The payload that a READ with a valid response commits is that of the response. -/
theorem payloadOf_checkedRead (addr : RegAddr) (len : Byte) (s : State) :
    payloadOf (checkedRead addr len s).resp len = payloadOf (responseOf len s) len := by
  rw [checkedRead, validateResponse_resp, setPhase_resp, answeredRead_resp,
    payloadOf_append (toNat_lt_length_responseOf len s)]

/-- A READ with a valid response stores its payload and returns it (R168). -/
theorem readBody_of_payload {s : State} {len : Byte} {payload : List Byte} {trailer : Byte}
    (h₀ : (s.answerAt 0).n = Config.cmdLen) (h₁ : (s.answerAt 1).n = responseLength len)
    (hresp : responseOf len s = payload ++ [trailer]) (htrailer : trailer = Config.ck payload) (addr : RegAddr)
    (out c : Nat) :
    readBody addr len out c s =
      release c (.okRead payload)
        (storeBytes out payload (clearErrors (setPhase .commit (checkedRead addr len s)))) := by
  rw [readBody_of_valid h₀ addr h₁ (responseValid_of_trailer hresp htrailer), commitRead, setPhase_resp,
    payloadOf_checkedRead, payloadOf_responseOf hresp]

/-- Settles O22: the READ is committed, and a byte sequence stored at OUT reads back there and nowhere else. -/
theorem readSucceeds : Obligations.ReadSucceeds := by
  intro s addr len out payload trailer hc hfree hready h₀ h₁ hbytes htrailer
  have hresp : responseOf len s = payload ++ [trailer] := hbytes
  have hlen : payload.length = len.toNat := length_payload_of_response hresp
  have hexec := exec_read hc hfree hready addr len out
  rw [readBody_of_payload (s := acquireLock _ _ s) h₀ h₁ hresp htrailer] at hexec
  refine ⟨_, hexec, releasedWith_release s _ _ _ ?callers hc, ?settings, ?estate, ?chan, ?cmd, ?bustrace, rfl,
    ?diagtrace, ?fault, hlen, ?rn, ?resp, fun k hk => ?inside, fun a ha => ?outside⟩
  case callers => simp [checkedRead, answeredRead]
  case settings => simp [SettingsUnchanged, checkedRead, answeredRead]
  case estate => simpa [checkedRead, answeredRead] using hready
  case bustrace => simp [checkedRead, h₀, h₁, hresp, responseLength, Config.tSettleUs]
  case rn => simpa [checkedRead, answeredRead] using h₁
  case resp => simp [checkedRead, hresp, responseLength]
  case inside => exact readByte_writeBytes_inside payload _ out k (hlen ▸ hk)
  case outside =>
    rw [← hlen] at ha
    simpa [checkedRead, answeredRead] using readByte_writeBytes_outside payload s.mem out a ha
  case chan | cmd | diagtrace | fault => simp [checkedRead, answeredRead]

/-! ### A mismatch whose recovery completes -/

theorem readBody_of_recovery_completed {s : State} {len : Byte} (h₀ : (s.answerAt 0).n = Config.cmdLen)
    (h₁ : (s.answerAt 1).n = responseLength len) (hv : ¬ ResponseValid len s) (addr : RegAddr) (out : Nat) {c : Nat}
    (hdone : RecoveryCompletes (mismatchedRead addr len c s)) :
    readBody addr len out c s =
      release c .checksumError (setEstate .ready (reinitialize (mismatchedRead addr len c s)).2) := by
  rw [readBody_of_mismatch h₀ addr h₁ hv, recoverRest_of_completed hdone]

/-- Settles O23: the READ reaches its recovery, which completes, and the release keeps what the mismatch has left. -/
theorem readMismatchRecovers : Obligations.ReadMismatchRecovers := by
  intro s addr len out payload trailer hc hfree hready h₀ h₁ hbytes hne hopen hconf
  have hresp : responseOf len s = payload ++ [trailer] := hbytes
  have hrecovery : RecoveryCompletes
      (mismatchedRead addr len s.caller (acquireLock s.caller (.read addr len out) s)) := by
    simpa [RecoveryCompletes] using ⟨hopen, hconf⟩
  have hexec := exec_read hc hfree hready addr len out
  rw [readBody_of_recovery_completed (s := acquireLock _ _ s) h₀ h₁ (not_responseValid hresp hne) addr out
    hrecovery] at hexec
  refine ⟨_, hexec, releasedWith_release s _ _ _ ?callers hc, ?settings, ?memory, rfl, ?chan, ?cmd, ?bustrace,
    ?errcnt, ?diagtrace, ?fault, ?rn, ?resp⟩
  case callers => simp
  case settings => simp [SettingsUnchanged]
  case memory => simp [MemoryUnchanged]
  case chan => exact reinitialize_chan_of_completed hrecovery
  case cmd => simp
  case bustrace =>
    simp [reinitialize_bustrace_of_completed hrecovery, hresp, responseLength, h₀, h₁,
      Config.tSettleUs, Config.tReinitPreUs, Config.tReinitPostUs]
  case errcnt => simp
  case diagtrace => simp
  case fault => simp [mismatchedRead, checkedRead, answeredRead]
  case rn => simp [h₁]
  case resp => simp [hresp, responseLength]

/-! ### The settle delay -/

/-- Once its command is written in full, a READ issues its DELAY and READ_BYTES and transfers nothing more. -/
theorem exists_events_after_response {s : State} {len : Byte} (h₀ : (s.answerAt 0).n = Config.cmdLen)
    (addr : RegAddr) (out c : Nat) :
    ∃ rest, (readBody addr len out c s).bustrace = (answeredRead addr len s).bustrace ++ rest ∧
      rest.any isTransfer = false := by
  by_cases h₁ : (s.answerAt 1).n = responseLength len
  · by_cases hv : ResponseValid len s
    · refine ⟨[], ?_, rfl⟩
      simp [readBody_of_valid h₀ addr h₁ hv, checkedRead]
    · rw [readBody_of_mismatch h₀ addr h₁ hv, recoverRest_bustrace, ← mismatchedRead_bustrace addr len c]
      exact exists_recoveryEvents _
  · refine ⟨[], ?_, rfl⟩
    simp [readBody_of_response_short h₀ addr h₁]

/-- Settles O60: the answered READ's entries are the three, and what follows transfers nothing. -/
theorem settleDelayBetweenCommandAndResponse : Obligations.SettleDelayBetweenCommandAndResponse := by
  intro s t addr len out hc hfree hready h₀ hexec
  rw [exec_read hc hfree hready] at hexec
  cases hexec
  obtain ⟨rest, hrest, htransfer⟩ :=
    exists_events_after_response (s := acquireLock s.caller (.read addr len out) s) (len := len) h₀ addr out s.caller
  refine ⟨rest, hrest.trans ?_, htransfer⟩
  simp [h₀, responseOf, responseLength, Config.tSettleUs]

end Sys2Proof.Proofs
end

section
/-! PROOF. The engine state: TERMINATED is final (O47), and every step follows the state machine (O48,
spec/42_engine_ops.md R171, R175). -/

namespace Sys2Proof.Proofs

open Sys2Proof.Machine Sys2Proof.Laws

/-! ### TERMINATED -/

/-- R197: of the requests that take the lock, TERMINATED admits SHUTDOWN alone. -/
theorem eq_shutdown_of_admitted_terminated {i : Instr} (hl : i.takesLock = true)
    (hadm : admitRequest i .terminated = .admitted) : i = .shutdown := by
  cases i <;> cases hl
  case shutdown => rfl
  case init | write | read => cases hadm

/-- The only turn of the engine in TERMINATED is the end of a SHUTDOWN (R170). -/
theorem eq_shutdownBody_of_turnOf_terminated {s t : State} {r : Request} (he : s.estate = .terminated)
    (hturn : TurnOf s r t) : t = shutdownBody r.caller s := by
  cases hturn with
  | finish => rfl
  | configure _ _ hadm | frame _ _ hadm | command _ _ hadm | settle _ _ hadm | respond _ _ hadm | judge _ _ hadm
  | recover _ _ hadm | commit _ _ hadm => simp [he] at hadm

/-- Settles O47: in TERMINATED a step is quiet, an acquire, or a SHUTDOWN once more, by a turn or served whole. -/
theorem terminatedIsFinal : Obligations.TerminatedIsFinal := by
  intro s t h he hstep
  obtain hq | ⟨-, hturn⟩ | ⟨c, call, i, -, hg, rfl⟩ | ⟨c, call, i, -, -, rfl⟩ := step_cases hstep
  · exact ⟨hq.estate.trans he, hq.bustrace, hq.errcnt, hq.chan, hq.mem, hq.diagtrace⟩
  · obtain ⟨-, rfl⟩ | ⟨r, -, hof⟩ := turn_cases ((Quiet.of_moveTaken s).blockInv h) hturn
    · exact ⟨he, rfl, rfl, rfl, rfl, rfl⟩
    · rw [eq_shutdownBody_of_turnOf_terminated (s := moveTaken s) he hof]
      exact ⟨rfl, rfl, rfl, rfl, rfl, rfl⟩
  · obtain rfl := eq_shutdown_of_admitted_terminated hg.locks (he ▸ hg.admitted)
    exact ⟨rfl, rfl, rfl, rfl, rfl, rfl⟩
  · exact ⟨he, rfl, rfl, rfl, rfl, rfl⟩

/-! ### The transitions of R175 -/

@[simp] theorem mayFollow_refl (e : EngineState) : mayFollow e e = true := by
  cases e <;> rfl

theorem mayFollow_shutdown {e : EngineState} (he : e = .uninitialized ∨ e = .ready ∨ e = .terminated) :
    mayFollow e .terminated = true := by
  obtain rfl | rfl | rfl := he <;> rfl

/-- INIT's two outcomes. -/
theorem mayFollow_configured {e : EngineState} (he : e = .uninitialized ∨ e = .ready) :
    mayFollow e .ready = true ∧ mayFollow e .faulted = true := by
  obtain rfl | rfl := he <;> exact ⟨rfl, rfl⟩

/-- The end of a recovery, or of one of its actions. -/
theorem mayFollow_recovered {e : EngineState} (he : e = .recovering ∨ e = .ready ∨ e = .faulted) :
    mayFollow .recovering e = true := by
  obtain rfl | rfl | rfl := he <;> rfl

@[simp] theorem actionEffect_estate (i : Instr) (s : State) : (actionEffect i s).estate = s.estate := by
  cases i <;> rfl

theorem afterRecovery_estate (r : Request) (s : State) :
    (afterRecovery r s).estate = s.estate ∨ (afterRecovery r s).estate = .ready ∨
      (afterRecovery r s).estate = .faulted := by
  unfold afterRecovery
  split_ifs
  · exact .inr (.inl rfl)
  · exact .inl rfl
  · exact .inr (.inr rfl)

/-- A turn of the engine follows the state machine. -/
theorem mayFollow_of_turnOf {s t : State} {r : Request} (hturn : TurnOf s r t) :
    mayFollow s.estate t.estate = true := by
  cases hturn with
  | configure _ _ he =>
    obtain ⟨hready, hfaulted⟩ := mayFollow_configured he
    unfold afterConfigure
    split
    · exact hready
    · exact hfaulted
  | command _ hop =>
    unfold afterCommand
    split
    · obtain hop | hop := hop <;> simp [hop]
    · simp
  | respond =>
    unfold afterResponse
    split <;> simp
  | judge _ _ he =>
    unfold afterVerdict
    rw [he]
    split
    · simp [he, mayFollow]
    · rfl
  | @recover i rest _ _ he =>
    have hafter := afterRecovery_estate r (setTodo rest (actionEffect i s))
    rw [setTodo_estate, actionEffect_estate, he] at hafter
    rw [he]
    exact mayFollow_recovered hafter
  | finish _ _ he => exact mayFollow_shutdown he
  | frame | settle | commit => exact mayFollow_refl _

theorem initBody_estate (c : Nat) (s : State) :
    (initBody c s).estate = .ready ∨ (initBody c s).estate = .faulted := by
  cases hok : (s.answerAt 0).ok with
  | true => exact .inl (by rw [initBody_of_ok hok]; rfl)
  | false => exact .inr (by rw [initBody_of_fail hok]; rfl)

theorem recoverRest_estate (c : Nat) (s : State) :
    (recoverRest c s).estate = .ready ∨ (recoverRest c s).estate = .faulted := by
  unfold recoverRest
  split
  · exact .inl rfl
  · exact .inr rfl

/-- A whole READ ends in READY, or in FAULTED where its recovery fails. -/
theorem readBody_estate {s : State} (he : s.estate = .ready) (addr : RegAddr) (len : Byte) (out c : Nat) :
    (readBody addr len out c s).estate = .ready ∨ (readBody addr len out c s).estate = .faulted := by
  by_cases h₀ : (s.answerAt 0).n = Config.cmdLen
  · by_cases h₁ : (s.answerAt 1).n = responseLength len
    · by_cases hv : ResponseValid len s
      · exact .inl (by simpa [readBody_of_valid h₀ addr h₁ hv, commitRead, checkedRead, answeredRead] using he)
      · rw [readBody_of_mismatch h₀ addr h₁ hv]
        exact recoverRest_estate c _
    · exact .inl (by simpa [readBody_of_response_short h₀ addr h₁, answeredRead] using he)
  · exact .inl (by simpa [readBody_of_command_short h₀] using he)

/-- An admitted request carried out whole follows the state machine. -/
theorem mayFollow_requestBody {i : Instr} {s : State} (hl : i.takesLock = true)
    (hadm : admitRequest i s.estate = .admitted) (c : Nat) :
    mayFollow s.estate (requestBody i c s).estate = true := by
  cases i <;> cases hl
  case init =>
    obtain ⟨hready, hfaulted⟩ := mayFollow_configured (estate_of_admitInit hadm)
    obtain h | h := initBody_estate c s <;> rw [requestBody, h]
    · exact hready
    · exact hfaulted
  case write => exact mayFollow_refl _
  case read addr len out =>
    have he := estate_of_admitTransfer hadm
    obtain h | h := readBody_estate he addr len out c <;> rw [requestBody, h, he] <;> rfl
  case shutdown => exact mayFollow_shutdown (estate_of_admitShutdown hadm)

/-- Settles O48: a quiet step and an acquire leave the engine state, and a turn and a whole request follow the state
machine. -/
theorem engineStateTransitions : Obligations.EngineStateTransitions := by
  intro s t h hstep
  obtain hq | ⟨-, hturn⟩ | ⟨c, call, i, -, hg, rfl⟩ | ⟨c, call, i, -, -, rfl⟩ := step_cases hstep
  · rw [hq.estate]
    exact mayFollow_refl _
  · obtain ⟨-, rfl⟩ | ⟨r, -, hof⟩ := turn_cases ((Quiet.of_moveTaken s).blockInv h) hturn
    · exact mayFollow_refl _
    · exact mayFollow_of_turnOf (s := moveTaken s) hof
  · exact mayFollow_requestBody (s := acquireLock c i (selectCaller c (moveTaken s))) hg.locks hg.admitted c
  · exact mayFollow_refl _

end Sys2Proof.Proofs
end

section
/-! PROOF. TraceFlag never changes protocol behaviour (O56, spec/42_engine_ops.md R173): every operation commutes with
blanking TraceFlag, the views and the diagnostic trace. -/

namespace Sys2Proof.Proofs

open Sys2Proof.Machine Sys2Proof.Laws

/-! ### What the operations read is not blanked -/

@[simp] theorem withoutLogging_withoutLogging (s : State) :
    withoutLogging (withoutLogging s) = withoutLogging s := by
  simp [withoutLogging]

@[simp] theorem withoutLogging_estate (s : State) : (withoutLogging s).estate = s.estate := rfl
@[simp] theorem withoutLogging_params (s : State) : (withoutLogging s).params = s.params := rfl
@[simp] theorem withoutLogging_phase (s : State) : (withoutLogging s).phase = s.phase := rfl
@[simp] theorem withoutLogging_lock (s : State) : (withoutLogging s).lock = s.lock := rfl
@[simp] theorem withoutLogging_resp (s : State) : (withoutLogging s).resp = s.resp := rfl
@[simp] theorem withoutLogging_rn (s : State) : (withoutLogging s).rn = s.rn := rfl
@[simp] theorem withoutLogging_req (s : State) : (withoutLogging s).req = s.req := rfl
@[simp] theorem withoutLogging_todo (s : State) : (withoutLogging s).todo = s.todo := rfl
@[simp] theorem withoutLogging_verdict (s : State) : (withoutLogging s).verdict = s.verdict := rfl
@[simp] theorem withoutLogging_caller (s : State) : (withoutLogging s).caller = s.caller := rfl
@[simp] theorem withoutLogging_answerAt (s : State) (i : Nat) : (withoutLogging s).answerAt i = s.answerAt i := rfl
@[simp] theorem withoutLogging_lastStatus (s : State) : lastStatus (withoutLogging s) = lastStatus s := rfl
@[simp] theorem withoutLogging_lastWritten (s : State) : lastWritten (withoutLogging s) = lastWritten s := rfl
@[simp] theorem withoutLogging_nextMove (s : State) : nextMove (withoutLogging s) = nextMove s := rfl

@[simp] theorem withoutLogging_callersLength (s : State) : (withoutLogging s).callers.length = s.callers.length :=
  List.length_map _

@[simp] theorem withoutLogging_waitingCall (s : State) (c : Nat) :
    waitingCall (withoutLogging s) c = waitingCall s c := by
  cases hc : s.callers[c]? <;> simp [waitingCall, withoutLogging, hc]

@[simp] theorem withoutLogging_mayIssue (s : State) (c : Nat) : mayIssue (withoutLogging s) c = mayIssue s c := by
  cases hc : s.callers[c]? <;> simp [mayIssue, withoutLogging, hc]

/-- A blanked view is not set. -/
theorem withoutLogging_viewOf (s : State) (c : Nat) : viewOf (withoutLogging s) c = false := by
  cases hc : s.callers[c]? <;> simp [viewOf, withoutLogging, hc]

/-! ### The operations commute with the blanking -/

section Operations

variable (s : State)

@[simp] theorem withoutLogging_setPhase (p : Phase) :
    withoutLogging (setPhase p s) = setPhase p (withoutLogging s) := rfl
@[simp] theorem withoutLogging_setEstate (e : EngineState) :
    withoutLogging (setEstate e s) = setEstate e (withoutLogging s) := rfl
@[simp] theorem withoutLogging_setCmd (f : CmdFrame) : withoutLogging (setCmd f s) = setCmd f (withoutLogging s) := rfl
@[simp] theorem withoutLogging_setTodo (l : List Instr) :
    withoutLogging (setTodo l s) = setTodo l (withoutLogging s) := rfl
@[simp] theorem withoutLogging_storeBytes (out : Nat) (bytes : List Byte) :
    withoutLogging (storeBytes out bytes s) = storeBytes out bytes (withoutLogging s) := rfl
@[simp] theorem withoutLogging_acquireLock (c : Nat) (i : Instr) :
    withoutLogging (acquireLock c i s) = acquireLock c i (withoutLogging s) := rfl
@[simp] theorem withoutLogging_selectCaller (c : Nat) :
    withoutLogging (selectCaller c s) = selectCaller c (withoutLogging s) := rfl
@[simp] theorem withoutLogging_moveTaken : withoutLogging (moveTaken s) = moveTaken (withoutLogging s) := rfl
@[simp] theorem withoutLogging_countError : withoutLogging (countError s) = countError (withoutLogging s) := rfl
@[simp] theorem withoutLogging_clearErrors : withoutLogging (clearErrors s) = clearErrors (withoutLogging s) := rfl
@[simp] theorem withoutLogging_validateResponse (payload : List Byte) (trailer : Byte) :
    withoutLogging (validateResponse payload trailer s) = validateResponse payload trailer (withoutLogging s) := rfl
@[simp] theorem withoutLogging_busConfigure :
    withoutLogging (busConfigure s).2 = (busConfigure (withoutLogging s)).2 := rfl
@[simp] theorem withoutLogging_busWriteBytes :
    withoutLogging (busWriteBytes s).2 = (busWriteBytes (withoutLogging s)).2 := rfl
@[simp] theorem withoutLogging_busDelay (us : Nat) :
    withoutLogging (busDelay us s) = busDelay us (withoutLogging s) := rfl
@[simp] theorem withoutLogging_busReadBytes (k : Nat) :
    withoutLogging (busReadBytes k s).2 = (busReadBytes k (withoutLogging s)).2 := rfl
@[simp] theorem withoutLogging_busClose : withoutLogging (busClose s) = busClose (withoutLogging s) := rfl
@[simp] theorem withoutLogging_busOpen : withoutLogging (busOpen s).2 = (busOpen (withoutLogging s)).2 := rfl

/-- An update of one caller, blanked, is that of the blanked state where it treats the view as any other. -/
theorem withoutLogging_updateCaller {f g : Caller → Caller}
    (hf : ∀ k, { f k with tview := false } = g { k with tview := false }) (c : Nat) :
    withoutLogging (updateCaller c f s) = updateCaller c g (withoutLogging s) := by
  have hcallers : ((s.callers.modify c f).map fun k => { k with tview := false }) =
      (s.callers.map fun k => { k with tview := false }).modify c g := by
    apply List.ext_getElem?
    intro d
    simp only [List.getElem?_map, List.getElem?_modify]
    cases s.callers[d]? with
    | none => rfl
    | some k => by_cases hcd : c = d <;> simp [hcd, hf]
  simp only [withoutLogging, updateCaller, hcallers]

/-- An update of the view alone is blanked. -/
theorem withoutLogging_updateView {f : Caller → Caller}
    (hf : ∀ k, { f k with tview := false } = { k with tview := false }) (c : Nat) :
    withoutLogging (updateCaller c f s) = withoutLogging s := by
  rw [withoutLogging_updateCaller s (g := id) hf, updateCaller, List.modify_id]

@[simp] theorem withoutLogging_deliver (c : Nat) (x : Result) :
    withoutLogging (deliver c x s) = deliver c x (withoutLogging s) :=
  withoutLogging_updateCaller s (by intro; rfl) c

@[simp] theorem withoutLogging_release (c : Nat) (x : Result) :
    withoutLogging (release c x s) = release c x (withoutLogging s) :=
  withoutLogging_deliver _ c x

@[simp] theorem withoutLogging_raiseFault (c : Nat) (e : FatalReason) :
    withoutLogging (raiseFault c e s) = raiseFault c e (withoutLogging s) :=
  withoutLogging_release _ c _

@[simp] theorem withoutLogging_refuse (c : Nat) (r : Reason) :
    withoutLogging (refuse c r s) = refuse c r (withoutLogging s) :=
  withoutLogging_updateCaller _ (by intro; rfl) c

@[simp] theorem withoutLogging_setPending (c : Nat) (call : Call) :
    withoutLogging (setPending c call s) = setPending c call (withoutLogging s) :=
  withoutLogging_updateCaller s (by intro; rfl) c

@[simp] theorem withoutLogging_setTrace (c : Nat) (enable : Bool) :
    withoutLogging (setTrace c enable s) = withoutLogging s :=
  withoutLogging_updateView { s with trace := enable } (by intro; rfl) c

@[simp] theorem withoutLogging_propagateTo (d : Nat) : withoutLogging (propagateTo d s) = withoutLogging s :=
  withoutLogging_updateView s (by intro; rfl) d

/-- THROTTLE only writes what is blanked, and without a view it writes nothing. -/
@[simp] theorem withoutLogging_throttle (c : Nat) (kind : DiagKind) :
    withoutLogging (throttle c kind s) = throttle c kind (withoutLogging s) := by
  have hview := withoutLogging_viewOf s c
  simp only [throttle, throttleEvents, hview, Bool.false_eq_true, false_and, if_false, List.append_nil]
  rfl

end Operations

/-! ### Whole requests, actions and what follows them -/

section Requests

variable (s : State)

@[simp] theorem withoutLogging_initBody (c : Nat) :
    withoutLogging (initBody c s) = initBody c (withoutLogging s) := by
  cases hok : (s.answerAt 0).ok <;> simp [initBody, hok]

@[simp] theorem withoutLogging_writeBody (addr : RegAddr) (value : Byte) (c : Nat) :
    withoutLogging (writeBody addr value c s) = writeBody addr value c (withoutLogging s) :=
  withoutLogging_release (busWriteBytes (setCmd (writeFrame addr value) s)).2 c _

@[simp] theorem withoutLogging_shutdownBody (c : Nat) :
    withoutLogging (shutdownBody c s) = shutdownBody c (withoutLogging s) := by
  simp [shutdownBody]

@[simp] theorem withoutLogging_commitRead (len : Byte) (out c : Nat) :
    withoutLogging (commitRead len out c s) = commitRead len out c (withoutLogging s) := by
  simp [commitRead]

@[simp] theorem withoutLogging_reinitialize :
    withoutLogging (reinitialize s).2 = (reinitialize (withoutLogging s)).2 := by
  simp [reinitialize, apply_ite Prod.snd, apply_ite withoutLogging]

/-- The blanked state recovers as the state does. -/
@[simp] theorem reinitialize_withoutLogging_fst : (reinitialize (withoutLogging s)).1 = (reinitialize s).1 := by
  simp [reinitialize, apply_ite Prod.fst]

@[simp] theorem withoutLogging_recoverRest (c : Nat) :
    withoutLogging (recoverRest c s) = recoverRest c (withoutLogging s) := by
  simp [recoverRest, apply_ite withoutLogging]

@[simp] theorem withoutLogging_checkRead (len : Byte) (out c : Nat) :
    withoutLogging (checkRead len out c s) = checkRead len out c (withoutLogging s) := by
  simp [checkRead, recoverRead_eq_recoverRest, apply_ite withoutLogging]

@[simp] theorem withoutLogging_respRest (len : Byte) (out c : Nat) :
    withoutLogging (respRest len out c s) = respRest len out c (withoutLogging s) := by
  by_cases hn : (s.answerAt 0).n = responseLength len <;> simp [respRest, hn]

@[simp] theorem withoutLogging_readBody (addr : RegAddr) (len : Byte) (out c : Nat) :
    withoutLogging (readBody addr len out c s) = readBody addr len out c (withoutLogging s) := by
  by_cases hn : (s.answerAt 0).n = Config.cmdLen <;> simp [readBody_eq_respRest, hn]

@[simp] theorem withoutLogging_actionEffect (i : Instr) :
    withoutLogging (actionEffect i s) = actionEffect i (withoutLogging s) := by
  cases i <;> rfl

theorem withoutLogging_requestBody (i : Instr) (c : Nat) :
    withoutLogging (requestBody i c s) = requestBody i c (withoutLogging s) := by
  cases i
  case init => exact withoutLogging_initBody s c
  case write addr value => exact withoutLogging_writeBody s addr value c
  case read addr len out => exact withoutLogging_readBody s addr len out c
  case shutdown => exact withoutLogging_shutdownBody s c
  all_goals rfl

theorem withoutLogging_afterCommand (r : Request) :
    withoutLogging (afterCommand r s) = afterCommand r (withoutLogging s) := by
  cases hop : r.op <;> simp [afterCommand, hop, apply_ite withoutLogging]

theorem withoutLogging_afterAction (i : Instr) :
    withoutLogging (afterAction i s) = afterAction i (withoutLogging s) := by
  cases hr : s.req with
  | none => simp [afterAction, hr]
  | some r =>
    cases hp : s.phase <;> simp only [afterAction, hr, hp, withoutLogging_req, withoutLogging_phase]
    case config => cases hok : lastStatus s <;> simp [afterConfigure, hok]
    case cmd => simp [withoutLogging_afterCommand, apply_ite withoutLogging]
    case settle => simp [afterSettle]
    case resp => by_cases hn : s.rn = responseLength r.data <;> simp [afterResponse, hn]
    case check => by_cases hv : s.verdict = some .valid <;> simp [afterVerdict, hv]
    case recover => cases hok : lastStatus s <;> by_cases ht : s.todo = [] <;> simp [afterRecovery, hok, ht]

theorem withoutLogging_silentPhase : withoutLogging (silentPhase s) = silentPhase (withoutLogging s) := by
  cases hr : s.req with
  | none => simp [silentPhase, hr]
  | some r => cases hp : s.phase <;> simp [silentPhase, hr, hp]

end Requests

/-! ### Outcomes -/

/-- What `run` answers does not depend on what is blanked, but for what is blanked. -/
def LoggingBlind (run : State → Host.Outcome State Fault Refusal) : Prop :=
  ∀ s, continueWith (run s) withoutLogging = continueWith (run (withoutLogging s)) withoutLogging

theorem loggingBlind_next {f : State → State} (hf : ∀ s, withoutLogging (f s) = f (withoutLogging s)) :
    LoggingBlind fun s => .next (f s) := by
  intro s
  simp only [continueWith, hf, withoutLogging_withoutLogging]

theorem LoggingBlind.comp {run : State → Host.Outcome State Fault Refusal} (h : LoggingBlind run) {f : State → State}
    (hf : ∀ s, withoutLogging (f s) = f (withoutLogging s)) : LoggingBlind fun s => run (f s) := by
  intro s
  rw [h, hf]

theorem continueWith_continueWith (o : Host.Outcome State Fault Refusal) (f g : State → State) :
    continueWith (continueWith o f) g = continueWith o fun s => g (f s) := by
  cases o <;> rfl

theorem LoggingBlind.continueWith {run : State → Host.Outcome State Fault Refusal} (h : LoggingBlind run)
    {f : State → State} (hf : ∀ s, withoutLogging (f s) = f (withoutLogging s)) :
    LoggingBlind fun s => continueWith (run s) f := by
  intro s
  have hpush (o : Host.Outcome State Fault Refusal) :
      Machine.continueWith (Machine.continueWith o f) withoutLogging =
        Machine.continueWith (Machine.continueWith o withoutLogging) f := by
    simp only [continueWith_continueWith, hf]
  rw [hpush, hpush, h]

theorem loggingBlind_lockedRequest (i : Instr) {body : Nat → State → State}
    (hbody : ∀ c s, withoutLogging (body c s) = body c (withoutLogging s)) : LoggingBlind (lockedRequest i body) := by
  intro s
  by_cases hc : s.caller < s.callers.length
  · cases hl : s.lock with
    | held c => simp [lockedRequest, hc, hl, continueWith]
    | free => cases ha : admitRequest i s.estate <;> simp [lockedRequest, hc, hl, ha, hbody, continueWith]
  · simp [lockedRequest, hc, continueWith]

theorem loggingBlind_execSetLogging (enable : Bool) : LoggingBlind (execSetLogging enable) := by
  intro s
  by_cases hc : s.caller < s.callers.length
  · cases ha : admitLogging s.estate <;> simp [execSetLogging, hc, ha, continueWith]
  · simp [execSetLogging, hc, continueWith]

theorem loggingBlind_exec (i : Instr) : LoggingBlind (exec i) := by
  cases hi : i.isRequest with
  | false =>
    rw [funext (exec_of_action hi)]
    exact loggingBlind_next fun s => withoutLogging_actionEffect s i
  | true =>
    cases hl : i.takesLock with
    | false =>
      obtain ⟨enable, rfl⟩ := eq_setLogging_of_not_takesLock hi hl
      exact loggingBlind_execSetLogging enable
    | true =>
      rw [funext (exec_of_takesLock hl)]
      exact loggingBlind_lockedRequest i fun c s => withoutLogging_requestBody s i c

theorem loggingBlind_beginRequest (i : Instr) : LoggingBlind (beginRequest i) := by
  cases hl : i.takesLock with
  | false =>
    have heq : beginRequest i = exec i := funext fun s => by simp [beginRequest, hl]
    exact heq ▸ loggingBlind_exec i
  | true =>
    rw [funext (beginRequest_of_takesLock hl)]
    exact loggingBlind_lockedRequest i fun _ s => withoutLogging_setTodo s _

theorem loggingBlind_withWaiting (c : Nat) {run : Instr → State → Host.Outcome State Fault Refusal}
    (hrun : ∀ i, LoggingBlind (run i)) : LoggingBlind (withWaiting c run) := by
  intro s
  cases hw : waitingCall s c with
  | none => simp [withWaiting, hw, continueWith]
  | some call =>
    cases hd : decodeRequest call.word call.out with
    | error r => simp [withWaiting, hw, hd, continueWith]
    | ok i => simpa [withWaiting, hw, hd] using hrun i (selectCaller c s)

theorem loggingBlind_issueRequest (c : Nat) (word : ReqWord) (out : Nat) : LoggingBlind (issueRequest c word out) := by
  intro s
  cases hm : mayIssue s c with
  | false => simp [issueRequest, hm, continueWith]
  | true =>
    cases hd : decodeRequest word out with
    | error r => simp [issueRequest, hm, hd, continueWith]
    | ok i =>
      cases hl : i.takesLock with
      | true => simp [issueRequest, hm, hd, hl, continueWith]
      | false =>
        simpa [issueRequest, hm, hd, hl] using
          loggingBlind_exec i (selectCaller c (setPending c { word := word, out := out } s))

theorem loggingBlind_engineTurn : LoggingBlind engineTurn := by
  intro s
  cases ht : s.todo with
  | nil => simp [engineTurn, ht, continueWith, withoutLogging_silentPhase]
  | cons i rest =>
    have hblind := ((loggingBlind_exec i).continueWith fun t => withoutLogging_afterAction t i).comp
      fun t => withoutLogging_setTodo t rest
    rw [engineTurn_of_todo ht, engineTurn_of_todo (s := withoutLogging s) ht]
    exact hblind s

theorem loggingBlind_makeMove (m : Move) : LoggingBlind (makeMove m) := by
  cases m with
  | issue c word out => exact loggingBlind_issueRequest c word out
  | serve c => exact loggingBlind_withWaiting c loggingBlind_exec
  | acquire c => exact loggingBlind_withWaiting c loggingBlind_beginRequest
  | engine => exact loggingBlind_engineTurn
  | propagate d =>
    intro s
    simp [makeMove, continueWith]

theorem loggingBlind_step : LoggingBlind step := fun s =>
  (loggingBlind_makeMove (nextMove s)).comp withoutLogging_moveTaken s

/-- Settles O56: both steps answer as the step of the one blanked state does. -/
theorem loggingNeverInterferes : Obligations.LoggingNeverInterferes := by
  intro s t h
  rw [loggingBlind_step s, h, ← loggingBlind_step t]

end Sys2Proof.Proofs
end

section
/-! PROOF. The ErrorCounter over one caller's requests (O58, spec/42_engine_ops.md R169, R176). -/

namespace Sys2Proof.Proofs

open Sys2Proof.Machine Sys2Proof.Laws

/-! ### What one result means for the counter -/

/-- The counter after a request that returned `x` (R169): a successful READ clears it, a failed READ counts, and no
other result touches it. -/
def counterAfter (x : Result) (s : State) : Nat :=
  match x with
  | .okRead _ => 0
  | .readError => countedOnce s
  | .checksumError => countedOnce s
  | .resetError => countedOnce s
  | .ok => s.errcnt
  | .writeError => s.errcnt
  | .busConfigError => s.errcnt

/-- The failed reads and the counter keep in step over one more result. -/
theorem counterAfter_eq_failedReads {l : List Result} {s : State}
    (h : s.errcnt = failedReads l % 2 ^ s.params.errcntW) (x : Result) :
    counterAfter x s = failedReads (l ++ [x]) % 2 ^ s.params.errcntW := by
  cases x
  case okRead => simp [counterAfter, failedReads]
  case readError | checksumError | resetError =>
    simp only [counterAfter, countedOnce, h, Nat.mod_add_mod]
    simp [failedReads]
  case ok | writeError | busConfigError => simpa [counterAfter, failedReads] using h

/-! ### Whole requests -/

/-- Between `s` and `t` one result is returned to caller `c`, and the counter has followed it. -/
def ReturnsCounted (s t : State) (c : Nat) : Prop :=
  ∃ x, resultsOf t c = resultsOf s c ++ [x] ∧ t.errcnt = counterAfter x s

section Bodies

variable {s : State} {c : Nat} (hc : c < s.callers.length)
include hc

theorem returnsCounted_release {t : State} (x : Result) (hcallers : t.callers = s.callers)
    (hcount : t.errcnt = counterAfter x s) : ReturnsCounted s (release c x t) c := by
  obtain ⟨-, -, -, -, hresults, -⟩ := releasedWith_release s t c x hcallers hc
  exact ⟨x, hresults, hcount⟩

theorem returnsCounted_raiseFault {t : State} (e : FatalReason) (hcallers : t.callers = s.callers)
    (hcount : t.errcnt = counterAfter (fatalResult e) s) : ReturnsCounted s (raiseFault c e t) c :=
  returnsCounted_release hc (t := { t with fault := some e, estate := .faulted }) _ hcallers hcount

theorem returnsCounted_initBody : ReturnsCounted s (initBody c s) c := by
  cases hok : (s.answerAt 0).ok with
  | true =>
    rw [initBody_of_ok hok]
    exact returnsCounted_release hc .ok (by simp) (by simp [counterAfter])
  | false =>
    rw [initBody_of_fail hok]
    exact returnsCounted_raiseFault hc .busConfigError (by simp) (by simp [counterAfter, fatalResult])

theorem returnsCounted_writeBody (addr : RegAddr) (value : Byte) :
    ReturnsCounted s (writeBody addr value c s) c := by
  unfold writeBody
  refine returnsCounted_release hc _ (by simp) ?_
  split <;> simp [counterAfter]

theorem returnsCounted_recoverRest {t : State} (hcallers : t.callers = s.callers) (hcount : t.errcnt = countedOnce s) :
    ReturnsCounted s (recoverRest c t) c := by
  unfold recoverRest
  split
  · exact returnsCounted_release hc .checksumError (by simpa) (by simpa [counterAfter])
  · exact returnsCounted_raiseFault hc .resetError (by simpa) (by simpa [counterAfter, fatalResult])

theorem returnsCounted_readBody (addr : RegAddr) (len : Byte) (out : Nat) :
    ReturnsCounted s (readBody addr len out c s) c := by
  by_cases h₀ : (s.answerAt 0).n = Config.cmdLen
  · by_cases h₁ : (s.answerAt 1).n = responseLength len
    · by_cases hv : ResponseValid len s
      · rw [readBody_of_valid h₀ addr h₁ hv]
        exact returnsCounted_release hc _ (by simp [checkedRead, answeredRead]) rfl
      · rw [readBody_of_mismatch h₀ addr h₁ hv]
        exact returnsCounted_recoverRest hc (by simp) (by simp)
    · rw [readBody_of_response_short h₀ addr h₁]
      exact returnsCounted_release hc .readError (by simp [answeredRead])
        (by simp [answeredRead, counterAfter, countedOnce])
  · rw [readBody_of_command_short h₀]
    exact returnsCounted_release hc .writeError (by simp) (by simp [counterAfter])

theorem returnsCounted_requestBody {i : Instr} (hl : i.takesLock = true) :
    ReturnsCounted s (requestBody i c s) c := by
  cases i <;> cases hl
  case init => exact returnsCounted_initBody hc
  case write addr value => exact returnsCounted_writeBody hc addr value
  case read addr len out => exact returnsCounted_readBody hc addr len out
  case shutdown => exact returnsCounted_release hc .ok rfl rfl

end Bodies

/-! ### Any request -/

/-- SET_LOGGING of a caller that exists has no step in FAULTED, and returns OK in every other state. -/
theorem returnsCounted_of_execSetLogging {enable : Bool} {s t : State} (h : execSetLogging enable s = .next t) :
    t = s ∨ ReturnsCounted s t s.caller := by
  by_cases hc : s.caller < s.callers.length
  · by_cases he : s.estate = .faulted
    · left
      simpa [execSetLogging, hc, he, admitLogging] using h.symm
    · right
      have hexec : execSetLogging enable s = _ := exec_setLogging_of_not_faulted hc he enable
      rw [hexec] at h
      cases h
      exact ⟨.ok, by rw [resultsOf_deliver _ _ _ (by simpa), setTrace_resultsOf], rfl⟩
  · simp [execSetLogging, hc] at h

/-- A request leaves its caller's results and the counter as they are, or returns one result, which the counter
follows. -/
theorem unanswered_or_returnsCounted {i : Instr} {s t : State} (hi : i.isRequest = true) (h : exec i s = .next t) :
    (resultsOf t s.caller = resultsOf s s.caller ∧ t.errcnt = s.errcnt) ∨ ReturnsCounted s t s.caller := by
  cases hl : i.takesLock with
  | false =>
    obtain ⟨enable, rfl⟩ := eq_setLogging_of_not_takesLock hi hl
    obtain rfl | hreturns := returnsCounted_of_execSetLogging h
    · exact .inl ⟨rfl, rfl⟩
    · exact .inr hreturns
  | true =>
    rw [exec_of_takesLock hl] at h
    obtain ⟨hf, -⟩ | ⟨hw, -, -⟩ | ⟨r, hr, -, -, -⟩ | ⟨hb, hc, -, -⟩ := lockedRequest_cases i (requestBody i) s
    · rw [hf] at h; cases h
    · rw [hw] at h; cases h; exact .inl ⟨rfl, rfl⟩
    · rw [hr] at h; cases h; exact .inl ⟨resultsOf_refuse _ _ _ _, rfl⟩
    · rw [hb] at h; cases h
      exact .inr (returnsCounted_requestBody (s := acquireLock s.caller i s) hc hl)

/-- Settles O58: a request returns nothing and leaves the counter, or returns one result, which both sides count. -/
theorem counterCountsFailedReads : Obligations.CounterCountsFailedReads := by
  intro i s t hi hexec hcount
  obtain ⟨-, -, -, -, -, hparams, -⟩ := grows_of_exec hexec
  rw [hparams]
  obtain ⟨hresults, herr⟩ | ⟨x, hresults, herr⟩ := unanswered_or_returnsCounted hi hexec
  · rw [hresults, herr, hcount]
  · rw [hresults, herr]
    exact counterAfter_eq_failedReads hcount x

end Sys2Proof.Proofs
end

section
/-! PROOF. The diagnostic throttle: one use of it (O31), and its events over a run of checksum failures (O57,
spec/42_engine_ops.md R167). -/

namespace Sys2Proof.Proofs

open Sys2Proof.Machine Sys2Proof.Laws

/-- Settles O31: THROTTLE appends the one event of its condition, or nothing. -/
theorem throttleEmits : Obligations.ThrottleEmits := by
  intro s c kind
  refine ⟨rfl, ?_⟩
  rw [throttle_emits, throttledTrace]
  by_cases hemit : viewOf s c = true ∧ s.errcnt % 50 = 1 <;> simp [hemit]

/-! ### The events of a run of failures -/

/-- The events of `n` checksum failures from the count `e` on, with the caller's view set: those of counts 1, 51, 101
and so on. -/
def checksumEvents (e n : Nat) : List Diag :=
  ((List.range' e n).filter fun k => (k + 1) % 50 == 1).map fun k =>
    { kind := .checksumError, count := k + 1, suppressed := decide (50 ≤ k + 1) }

theorem checksumEvents_add (e m n : Nat) :
    checksumEvents e (m + n) = checksumEvents e m ++ checksumEvents (e + m) n := by
  simp only [checksumEvents, ← List.range'_append_1, List.filter_append, List.map_append]

/-- One failure of a caller whose view is set emits the events of its count. -/
theorem throttledTrace_eq_checksumEvents {s : State} {c : Nat} (hview : viewOf s c = true) :
    throttledTrace s c .checksumError (s.errcnt + 1) = s.diagtrace ++ checksumEvents s.errcnt 1 := by
  by_cases hk : (s.errcnt + 1) % 50 = 1 <;> simp [throttledTrace, checksumEvents, hview, hk]

theorem length_checksumEvents_150 : (checksumEvents 0 150).length = 3 := rfl

/-! ### One failure -/

/-- What the bus answers to a READ that ends in a mismatch and is recovered with a CONFIGURE. -/
def mismatchAnswers (len : Byte) (payload : List Byte) (trailer : Byte) : List Answer :=
  [{ ok := true, n := 3, bytes := [] }, { ok := true, n := len.toNat + 1, bytes := payload ++ [trailer] },
    { ok := true, n := 0, bytes := [] }, { ok := true, n := 0, bytes := [] }]

@[simp] theorem reinitialize_caller (s : State) : (reinitialize s).2.caller = s.caller :=
  (congrArg State.caller (apartFromBus_reinitialize s) :)

/-- A recovery with its CONFIGURE draws two answers. -/
theorem reinitialize_answers_of_reconfig {s : State} (h : RecoveryCompletes s)
    (hreconf : s.params.reconfigOnReinit = true) : (reinitialize s).2.answers = s.answers.drop 2 := by
  obtain ⟨ho, hconf⟩ := h
  simp [reinitialize, ho, hreconf, hconf]

section Failures

variable (len : Byte) (payload : List Byte) (trailer : Byte) (later : List Answer)

/-- The selected caller may issue `n` READs in a row that end in a mismatch and are recovered, with its view set and
the counter not at its end. -/
structure FailsTimes (n : Nat) (s : State) : Prop where
  caller   : s.caller < s.callers.length
  free     : s.lock = .free
  ready    : s.estate = .ready
  reconfig : s.params.reconfigOnReinit = true
  inRange  : s.errcnt + n < 2 ^ s.params.errcntW
  view     : viewOf s s.caller = true
  answers  : s.answers = (List.replicate n (mismatchAnswers len payload trailer)).flatten ++ later

/-- What `n` such READs of caller `c` leave. -/
structure FailedTimes (c n : Nat) (s t : State) : Prop where
  errcnt    : t.errcnt = s.errcnt + n
  estate    : t.estate = .ready
  results   : resultsOf t c = resultsOf s c ++ List.replicate n .checksumError
  bustrace  : t.bustrace.length = s.bustrace.length + 8 * n
  memory    : MemoryUnchanged s t
  diagtrace : t.diagtrace = s.diagtrace ++ checksumEvents s.errcnt n

variable {len payload trailer later}

theorem FailedTimes.refl {s : State} (hready : s.estate = .ready) (c : Nat) : FailedTimes c 0 s s where
  errcnt := rfl
  estate := hready
  results := by simp
  bustrace := rfl
  memory _ := rfl
  diagtrace := by simp [checksumEvents]

theorem FailedTimes.trans {c m n : Nat} {s t u : State} (h : FailedTimes c m s t) (h' : FailedTimes c n t u) :
    FailedTimes c (m + n) s u where
  errcnt := by rw [h'.errcnt, h.errcnt, Nat.add_assoc]
  estate := h'.estate
  results := by rw [h'.results, h.results, List.append_assoc, List.replicate_append_replicate]
  bustrace := by rw [h'.bustrace, h.bustrace]; omega
  memory a := (h'.memory a).trans (h.memory a)
  diagtrace := by rw [h'.diagtrace, h.diagtrace, h.errcnt, List.append_assoc, checksumEvents_add]

/-- A READ whose mismatch is recovered with a CONFIGURE draws four answers, and the port keeps its caller. -/
theorem answers_of_mismatch {s t : State} {addr : RegAddr} {out : Nat} (hc : s.caller < s.callers.length)
    (hfree : s.lock = .free) (hready : s.estate = .ready) (h₀ : (s.answerAt 0).n = Config.cmdLen)
    (h₁ : (s.answerAt 1).n = responseLength len) (hv : ¬ ResponseValid len s) (hopen : (s.answerAt 2).ok = true)
    (hreconf : s.params.reconfigOnReinit = true) (hconf : (s.answerAt 3).ok = true)
    (hexec : exec (.read addr len out) s = .next t) : t.caller = s.caller ∧ t.answers = s.answers.drop 4 := by
  have hrecovery : RecoveryCompletes
      (mismatchedRead addr len s.caller (acquireLock s.caller (.read addr len out) s)) := by
    simp [RecoveryCompletes, hopen, hconf]
  rw [exec_read hc hfree hready, readBody_of_recovery_completed (s := acquireLock _ _ s) h₀ h₁ hv addr out
    hrecovery] at hexec
  cases hexec
  have hdrop := reinitialize_answers_of_reconfig hrecovery (by simpa)
  constructor
  · simp [mismatchedRead, checkedRead, answeredRead]
  · rw [release_answers, setEstate_answers, hdrop]
    simp [mismatchedRead, checkedRead, answeredRead]

theorem answerAt_of_mismatchAnswers {s : State} {rest : List Answer}
    (h : s.answers = mismatchAnswers len payload trailer ++ rest) :
    (s.answerAt 0).n = 3 ∧ (s.answerAt 1).n = len.toNat + 1 ∧ (s.answerAt 1).bytes = payload ++ [trailer] ∧
      (s.answerAt 2).ok = true ∧ (s.answerAt 3).ok = true := by
  simp [State.answerAt, h, mismatchAnswers]

/-- One of the READs: it fails once, and the others may follow. -/
theorem exec_read_of_failsTimes {n : Nat} {s : State} (h : FailsTimes len payload trailer later (n + 1) s)
    (hlen : payload.length = len.toNat) (hne : trailer ≠ Config.ck payload) (addr : RegAddr) (out : Nat) :
    ∃ t, exec (.read addr len out) s = .next t ∧ t.caller = s.caller ∧ FailsTimes len payload trailer later n t ∧
      FailedTimes s.caller 1 s t := by
  obtain ⟨hc, hfree, hready, hreconf, hrange, hview, hanswers⟩ := h
  rw [List.replicate_succ, List.flatten_cons, List.append_assoc] at hanswers
  obtain ⟨h₀, h₁, hlisted, hopen, hconf⟩ := answerAt_of_mismatchAnswers hanswers
  have hbytes : s.bytesAt 1 (len.toNat + 1) = payload ++ [trailer] := by
    rw [State.bytesAt, hlisted, show len.toNat + 1 = (payload ++ [trailer]).length by simp [hlen], fitBytes_exact]
  have hcount : countedOnce s = s.errcnt + 1 := Nat.mod_eq_of_lt (by omega)
  obtain ⟨t, hexec, ⟨hfree', -, -, -, hresults, -, hview', -⟩, ⟨hparams, -⟩, hmem, hready', -, -, hbus, herr, hdiag,
      -⟩ :=
    readMismatchRecovers s addr len out payload trailer hc hfree hready h₀ h₁ hbytes hne hopen fun _ => hconf
  obtain ⟨hcaller, hdrop⟩ := answers_of_mismatch hc hfree hready h₀ h₁ (not_responseValid hbytes hne) hopen hreconf
    hconf hexec
  obtain ⟨-, -, -, -, -, -, hcallers⟩ := grows_of_exec hexec
  rw [hcount] at herr hdiag
  refine ⟨t, hexec, hcaller, ⟨?caller, hfree', hready', ?reconfig, ?inRange, ?view, ?answers⟩,
    herr, hready', hresults, ?bustrace, hmem, ?diagtrace⟩
  case caller => rwa [hcaller, hcallers]
  case reconfig => rwa [hparams]
  case inRange =>
    rw [herr, hparams]
    omega
  case view => rw [hcaller, hview', hview]
  case answers =>
    rw [hdrop, hanswers]
    rfl
  case bustrace => simp [hbus, hreconf]
  case diagtrace => rw [hdiag, throttledTrace_eq_checksumEvents hview]

theorem repeatExec_of_failsTimes {n : Nat} {s : State} (h : FailsTimes len payload trailer later n s)
    (hlen : payload.length = len.toNat) (hne : trailer ≠ Config.ck payload) (addr : RegAddr) (out : Nat) :
    ∃ t, repeatExec n (.read addr len out) s = .next t ∧ FailedTimes s.caller n s t := by
  induction n generalizing s with
  | zero => exact ⟨s, rfl, .refl h.ready _⟩
  | succ n ih =>
    obtain ⟨u, hexec, hcaller, hfails, hfailed⟩ := exec_read_of_failsTimes h hlen hne addr out
    obtain ⟨t, hrun, hrest⟩ := ih hfails
    rw [hcaller] at hrest
    refine ⟨t, by simpa [repeatExec, hexec] using hrun, ?_⟩
    exact Nat.add_comm 1 n ▸ hfailed.trans hrest

end Failures

/-- Settles O57: by induction on the READs, whose events add up. -/
theorem throttleOverFailures : Obligations.ThrottleOverFailures := by
  intro n s addr len out payload trailer later hc hfree hready hreconf hzero hrange hview hlen hne hanswers
  have hfails : FailsTimes len payload trailer later n s :=
    ⟨hc, hfree, hready, hreconf, by rwa [hzero, Nat.zero_add], hview, hanswers⟩
  obtain ⟨t, hrun, herr, hestate, hresults, hbus, hmem, hdiag⟩ := repeatExec_of_failsTimes hfails hlen hne addr out
  rw [hzero] at herr hdiag
  refine ⟨t, hrun, by simpa using herr, hestate, hresults, hbus, hmem, ?_, ?_⟩
  · rw [hdiag, checksumEvents, List.range_eq_range']
  · rintro rfl
    rw [hdiag, List.length_append, length_checksumEvents_150]

end Sys2Proof.Proofs
end

section
/-! PROOF. Where a request takes no step or is refused (O27, O29, spec/60_exceptions.md R194, R196, R197), and the
numeric codes and tags (O32). -/

namespace Sys2Proof.Proofs

open Sys2Proof.Machine Sys2Proof.Laws

/-! ### The state check does not admit the request -/

theorem lockedRequest_of_refused {i : Instr} {r : Reason} {s : State} (hc : s.caller < s.callers.length)
    (hfree : s.lock = .free) (hadm : admitRequest i s.estate = .refused r) (body : Nat → State → State) :
    lockedRequest i body s = .next (refuse s.caller r s) := by
  simp [lockedRequest, hc, hfree, hadm]

/-- A request without a step in this state stays pending, the lock held or free. -/
theorem lockedRequest_of_noStep {i : Instr} {s : State} (hc : s.caller < s.callers.length)
    (hadm : admitRequest i s.estate = .noStep) (body : Nat → State → State) : lockedRequest i body s = .next s := by
  cases hl : s.lock with
  | held d => exact lockedRequest_of_held hc hl i body
  | free => simp [lockedRequest, hc, hl, hadm]

/-- R197: FAULTED gives no request a step. -/
theorem admitRequest_faulted_eq_noStep (i : Instr) : admitRequest i .faulted = .noStep := by
  cases i <;> rfl

theorem exec_setLogging_of_faulted {s : State} (hc : s.caller < s.callers.length) (he : s.estate = .faulted)
    (enable : Bool) : exec (.setLogging enable) s = .next s := by
  simp [exec, execSetLogging, hc, he, admitLogging]

/-- Settles O27: the state check refuses the request, and a refusal updates its caller's mark alone. -/
theorem stateRefusals : Obligations.StateRefusals := by
  intro s i r hc hfree hcase
  obtain ⟨hl, hadm⟩ : i.takesLock = true ∧ admitRequest i s.estate = .refused r := by
    obtain ⟨hi, he, rfl⟩ | ⟨hi, he, rfl⟩ := hcase <;> rw [he]
    · obtain ⟨a, v, rfl⟩ | ⟨a, l, o, rfl⟩ := hi <;> exact ⟨rfl, rfl⟩
    · obtain rfl | ⟨a, v, rfl⟩ | ⟨a, l, o, rfl⟩ := hi <;> exact ⟨rfl, rfl⟩
  refine ⟨(refuse s.caller r s).callers, ?exec, fun d hd => ?other, ?same⟩
  case exec => rw [exec_of_takesLock hl, lockedRequest_of_refused hc hfree hadm]; rfl
  case other => exact updateCaller_other s.caller d _ { s with refused := true, reasons := s.reasons ++ [r] } hd
  case same => exact updateCaller_same s.caller _ { s with refused := true, reasons := s.reasons ++ [r] }

/-- Settles O29: neither a locked request nor SET_LOGGING has a step. -/
theorem faultedTakesNoStep : Obligations.FaultedTakesNoStep := by
  intro s i hc hi he
  cases hl : i.takesLock with
  | false =>
    obtain ⟨enable, rfl⟩ := eq_setLogging_of_not_takesLock hi hl
    exact exec_setLogging_of_faulted hc he enable
  | true =>
    rw [exec_of_takesLock hl]
    exact lockedRequest_of_noStep hc (he ▸ admitRequest_faulted_eq_noStep i) _

/-! ### Codes and tags (R94, R190) -/

/-- Settles O32: each code and each tag is an entry of its table. -/
theorem codesAndTags : Obligations.CodesAndTags :=
  ⟨fun _ => rfl, rfl, rfl, rfl, rfl, rfl, rfl, fun _ _ => rfl, fun _ _ => rfl, fun _ => rfl, fun _ _ _ => rfl, rfl,
    fun _ => rfl⟩

end Sys2Proof.Proofs
end

section
/-! SUPPORT. Runs under a schedule: the invariant of the block holds all along, and a step with a request in progress
frees the lock or carries the request on (spec/60_exceptions.md R213). -/

namespace Sys2Proof.Proofs

open Sys2Proof.Machine Sys2Proof.Laws

/-- Which moves are listed belongs to no transaction. -/
theorem Quiet.of_moves (s : State) (l : List Move) : Quiet s { s with moves := l } :=
  ⟨.refl s, rfl, id, fun _ => ⟨rfl, fun _ => rfl⟩⟩

theorem blockInv_of_execution {sched : Nat → Move} {run : Nat → State} (hrun : Execution sched run)
    (h : BlockInv (run 0)) (k : Nat) : BlockInv (run k) := by
  induction k with
  | zero => exact h
  | succ k ih => exact stepKeepsInvariant _ _ ((Quiet.of_moves (run k) [sched k]).blockInv ih) (hrun k)

/-- Who holds the lock has a request in progress. -/
theorem exists_request_of_held {s : State} {c : Nat} (h : BlockInv s) (hheld : s.lock = .held c) :
    ∃ r, s.req = some r := by
  cases hr : s.req with
  | some r => exact ⟨r, rfl⟩
  | none =>
    have hs := h.sequencer
    simp only [SequencerPoint, hr, hheld] at hs
    obtain ⟨-, hlock, -⟩ := hs
    cases hlock

/-- With a request in progress, a step frees the lock or leaves the request with no more turns to come, and with fewer
where it is the engine's. -/
theorem step_frees_or_carriesOn {s t : State} {r : Request} (h : BlockInv s) (hr : s.req = some r)
    (hstep : step s = .next t) :
    t.lock = .free ∨
    (t.req = some r ∧ laterTurns t ≤ laterTurns s ∧ (nextMove s = .engine → laterTurns t < laterTurns s)) := by
  by_cases hm : nextMove s = .engine
  · rw [step_eq_engineTurn hm] at hstep
    obtain ⟨u, hturn, hnext⟩ := engineTurn_ends_or_advances (s := moveTaken s) ((Quiet.of_moveTaken s).blockInv h) hr
    rw [hturn] at hstep
    cases hstep
    obtain ⟨x, hfree, -⟩ | ⟨hreq, -, hless⟩ := hnext
    · exact .inl hfree
    · exact .inr ⟨hreq, Nat.le_of_lt hless, fun _ => hless⟩
  · obtain ⟨hheld, -, -⟩ := point_of_request h hr
    obtain ⟨-, hreq, hphase, htodo, -⟩ := lockIsolatesRequest s t r.caller hheld hm hstep
    have hturns : laterTurns t = laterTurns s := by simp only [laterTurns, hphase, htodo]
    exact .inr ⟨hreq.trans hr, hturns.le, fun hengine => absurd hengine hm⟩

end Sys2Proof.Proofs
end

section
/-! SUPPORT. What a step leaves of a caller that waits outside the lock: its waiting request (spec/20_memory.md R73,
R75). -/

namespace Sys2Proof.Proofs

open Sys2Proof.Machine Sys2Proof.Laws

/-! ### A caller that does not hold the lock -/

/-- From `s` to `t`, caller `c`, if it does not hold the lock, has not got it and keeps its waiting request. -/
def LeavesOutside (c : Nat) (s t : State) : Prop :=
  s.lock ≠ .held c → t.lock ≠ .held c ∧ waitingCall t c = waitingCall s c

theorem LeavesOutside.refl (c : Nat) (s : State) : LeavesOutside c s s := fun hne => ⟨hne, rfl⟩

theorem LeavesOutside.trans {c : Nat} {s t u : State} (h : LeavesOutside c s t) (h' : LeavesOutside c t u) :
    LeavesOutside c s u := by
  intro hs
  obtain ⟨ht, hcall⟩ := h hs
  obtain ⟨hu, hcall'⟩ := h' ht
  exact ⟨hu, hcall'.trans hcall⟩

/-- The waiting request is read off the caller's record. -/
theorem waitingCall_congr {s t : State} {c : Nat} (h : t.callers[c]? = s.callers[c]?) :
    waitingCall t c = waitingCall s c := by
  simp only [waitingCall, h]

theorem leavesOutside_of_callers {c : Nat} {s t : State} (hlock : t.lock = s.lock)
    (hcallers : t.callers[c]? = s.callers[c]?) : LeavesOutside c s t := fun hne =>
  ⟨hlock ▸ hne, waitingCall_congr hcallers⟩

theorem leavesOutside_propagateTo (c d : Nat) (s : State) : LeavesOutside c s (propagateTo d s) := by
  refine fun hne => ⟨hne, ?_⟩
  simp only [waitingCall, propagateTo_callers, List.getElem?_modify]
  cases s.callers[c]? with
  | none => rfl
  | some k => by_cases hdc : d = c <;> simp [hdc]

/-- Taking the lock for another caller. -/
theorem leavesOutside_acquireLock {c d : Nat} (hd : c ≠ d) (i : Instr) (s : State) :
    LeavesOutside c s (acquireLock d i s) := fun _ => ⟨by simpa using hd.symm, rfl⟩

theorem leavesOutside_refuse {c d : Nat} (hd : c ≠ d) (r : Reason) (s : State) : LeavesOutside c s (refuse d r s) :=
  leavesOutside_of_callers rfl (by simp [hd.symm])

theorem leavesOutside_setPending {c d : Nat} (hd : c ≠ d) (call : Call) (s : State) :
    LeavesOutside c s (setPending d call s) :=
  leavesOutside_of_callers rfl (by simp [hd.symm])

/-! ### The engine -/

/-- A turn answers the holder of the lock alone. -/
theorem leavesOutside_engineTurn {s t : State} (h : BlockInv s) (hturn : engineTurn s = .next t) (c : Nat) :
    LeavesOutside c s t := by
  obtain ⟨-, rfl⟩ | ⟨r, hr, -⟩ := turn_cases h hturn
  · exact .refl c _
  · intro hne
    obtain ⟨hheld, -, -⟩ := point_of_request h hr
    have hother : c ≠ r.caller := by rintro rfl; exact hne hheld
    obtain ⟨u, hu, hnext⟩ := engineTurn_ends_or_advances h hr
    rw [hu] at hturn
    cases hturn
    obtain ⟨x, hfree, -, -, -, -, -, -, hothers⟩ | ⟨hreq, hcallers, -⟩ := hnext
    · exact ⟨by simp [hfree], waitingCall_congr (hothers c hother)⟩
    · obtain ⟨hheld', -, -⟩ := point_of_request (blockInv_of_engineTurn h hu) hreq
      exact ⟨by simpa [hheld'] using hother.symm, waitingCall_congr (by rw [hcallers])⟩

theorem leavesOutside_engineRun {k : Nat} {s t : State} (h : BlockInv s) (hrun : engineRun k s = .next t) (c : Nat) :
    LeavesOutside c s t := by
  induction k generalizing s with
  | zero => cases hrun; exact .refl c _
  | succ k ih =>
    rw [engineRun] at hrun
    cases hturn : engineTurn s with
    | next u =>
      rw [hturn] at hrun
      exact (leavesOutside_engineTurn h hturn c).trans (ih (blockInv_of_engineTurn h hturn) hrun)
    | fault e | refused e =>
      rw [hturn] at hrun
      cases hrun

/-! ### Requests of another caller -/

section Requests

variable {s : State} {i : Instr} {c : Nat} (h : BlockInv s) (hc : c ≠ s.caller)
include hc

theorem leavesOutside_of_lockedRequest {body : Nat → State → State} {t : State}
    (hbody : s.caller < s.callers.length → admitRequest i s.estate = .admitted →
      LeavesOutside c (acquireLock s.caller i s) (body s.caller (acquireLock s.caller i s)))
    (hnext : lockedRequest i body s = .next t) : LeavesOutside c s t := by
  obtain ⟨hf, -⟩ | ⟨hw, -, -⟩ | ⟨r, hr, -, -, -⟩ | ⟨hb, hlt, -, hadm⟩ := lockedRequest_cases i body s
  · rw [hf] at hnext; cases hnext
  · rw [hw] at hnext; cases hnext; exact .refl c s
  · rw [hr] at hnext; cases hnext; exact leavesOutside_refuse hc r s
  · rw [hb] at hnext; cases hnext
    exact (leavesOutside_acquireLock hc i s).trans (hbody hlt hadm)

theorem leavesOutside_of_execSetLogging {enable : Bool} {t : State} (hnext : exec (.setLogging enable) s = .next t) :
    LeavesOutside c s t := by
  by_cases hlt : s.caller < s.callers.length
  · by_cases he : s.estate = .faulted
    · rw [exec_setLogging_of_faulted hlt he] at hnext
      cases hnext
      exact .refl c s
    · rw [exec_setLogging_of_not_faulted hlt he] at hnext
      cases hnext
      exact leavesOutside_of_callers rfl (by simp [hc.symm])
  · simp [exec, execSetLogging, hlt] at hnext

include h

/-- A request carried out whole is an acquire and turns of the engine. -/
theorem leavesOutside_of_exec (hi : i.isRequest = true) {t : State} (hnext : exec i s = .next t) :
    LeavesOutside c s t := by
  cases hl : i.takesLock with
  | false =>
    obtain ⟨enable, rfl⟩ := eq_setLogging_of_not_takesLock hi hl
    exact leavesOutside_of_execSetLogging hc hnext
  | true =>
    rw [exec_of_takesLock hl] at hnext
    refine leavesOutside_of_lockedRequest hc (fun hlt hadm => ?_) hnext
    obtain ⟨k, -, hrun⟩ := engineReaches_requestBody hl s.caller s
    exact leavesOutside_engineRun (blockInv_acquire h hlt hl hadm) hrun c

theorem leavesOutside_of_beginRequest (hi : i.isRequest = true) {t : State} (hnext : beginRequest i s = .next t) :
    LeavesOutside c s t := by
  cases hl : i.takesLock with
  | false =>
    rw [beginRequest, if_neg (by simp [hl])] at hnext
    exact leavesOutside_of_exec h hc hi hnext
  | true =>
    rw [beginRequest_of_takesLock hl] at hnext
    exact leavesOutside_of_lockedRequest hc (fun _ _ => .refl c _) hnext

end Requests

/-! ### The moves of another caller -/

section OtherCaller

variable {s t : State} {c d : Nat} (h : BlockInv s) (hd : c ≠ d)
include h hd

theorem leavesOutside_of_withWaiting {run : Instr → State → Host.Outcome State Fault Refusal}
    (hrun : ∀ {u : State} {i : Instr}, BlockInv u → c ≠ u.caller → i.isRequest = true → ∀ {v : State},
      run i u = .next v → LeavesOutside c u v)
    (hnext : withWaiting d run s = .next t) : LeavesOutside c s t := by
  obtain ⟨hn, -⟩ | ⟨call, r, -, -, hr⟩ | ⟨call, i, -, hdec, hi⟩ := withWaiting_cases d run s
  · rw [hn] at hnext; cases hnext; exact .refl c s
  · rw [hr] at hnext; cases hnext; exact leavesOutside_refuse hd r s
  · rw [hi] at hnext
    exact hrun (u := selectCaller d s) ((Quiet.of_selectCaller d s).blockInv h) hd (isRequest_of_decodeRequest hdec)
      hnext

theorem leavesOutside_of_issueRequest {word : ReqWord} {out : Nat} (hnext : issueRequest d word out s = .next t) :
    LeavesOutside c s t := by
  have hpending := leavesOutside_setPending hd { word := word, out := out } s
  have hquiet := (Quiet.of_setPending d { word := word, out := out } s).trans (.of_selectCaller d _)
  obtain ⟨hn, -⟩ | ⟨r, -, -, hr⟩ | ⟨i, -, -, -, hp⟩ | ⟨i, -, hdec, -, hi⟩ := issueRequest_cases d word out s
  · rw [hn] at hnext; cases hnext; exact .refl c s
  · rw [hr] at hnext; cases hnext; exact hpending.trans (leavesOutside_refuse hd r _)
  · rw [hp] at hnext; cases hnext; exact hpending
  · rw [hi] at hnext
    exact hpending.trans (leavesOutside_of_exec (hquiet.blockInv h) hd (isRequest_of_decodeRequest hdec) hnext)

end OtherCaller

/-! ### The moves of the caller that waits -/

section Waits

variable {s t : State} {c : Nat} (hwaits : WaitsForLock s c)
include hwaits

/-- R46: a caller that waits has a pending request and issues nothing. -/
theorem issueRequest_of_waits (word : ReqWord) (out : Nat) : issueRequest c word out s = .next s := by
  obtain ⟨-, call, -, hw, -, -⟩ := hwaits
  refine issueRequest_of_not_mayIssue (mayIssue_eq_false_of_pending ?_) word out
  unfold waitingCall at hw
  unfold pendingOf
  cases hk : s.callers[c]? with
  | none => simp [hk] at hw
  | some k =>
    simp only [hk, Option.ite_none_left_eq_some] at hw
    simp [hw]

/-- R73: under a held lock the caller's request waits on. -/
theorem withWaiting_of_waits_of_not_free (hfree : s.lock ≠ .free)
    {run : Instr → State → Host.Outcome State Fault Refusal} {body : Instr → Nat → State → State}
    (hlocks : ∀ i, i.takesLock = true → ∀ u, run i u = lockedRequest i (body i) u) :
    withWaiting c run s = .next (selectCaller c s) := by
  obtain ⟨-, call, i, hw, hdec, hl⟩ := hwaits
  rw [withWaiting_of_decoded run hw hdec, hlocks i hl]
  cases hlock : s.lock with
  | free => exact absurd hlock hfree
  | held e => exact lockedRequest_of_held (s := selectCaller c s) (waitingCall_lt hw) hlock i _

end Waits

/-! ### The step -/

theorem waitsForLock_of_leavesOutside {s t : State} {c : Nat} (hwaits : WaitsForLock s c) (h : LeavesOutside c s t) :
    WaitsForLock t c := by
  obtain ⟨hne, call, i, hw, hdec, hl⟩ := hwaits
  obtain ⟨hne', hcall⟩ := h hne
  exact ⟨hne', call, i, hcall.trans hw, hdec, hl⟩

/-- A caller waits on over every step that does not grant it the lock. -/
theorem waitsForLock_of_step {s t : State} {c : Nat} (h : BlockInv s) (hwaits : WaitsForLock s c)
    (hgrant : ¬ GrantsLock s (nextMove s) c) (hstep : step s = .next t) : WaitsForLock t c := by
  have hmoved : BlockInv (moveTaken s) := (Quiet.of_moveTaken s).blockInv h
  suffices hleaves : LeavesOutside c (moveTaken s) t from waitsForLock_of_leavesOutside hwaits hleaves
  cases hm : nextMove s with
  | issue d word out =>
    rw [step_eq_issueRequest hm] at hstep
    by_cases hd : c = d
    · subst hd
      rw [issueRequest_of_waits (s := moveTaken s) hwaits] at hstep
      cases hstep
      exact .refl c _
    · exact leavesOutside_of_issueRequest hmoved hd hstep
  | serve d =>
    rw [step_eq_serveCaller hm] at hstep
    by_cases hd : c = d
    · subst hd
      have hheld : s.lock ≠ .free := fun hfree => hgrant ⟨hfree, .inl hm⟩
      rw [serveCaller, withWaiting_of_waits_of_not_free (s := moveTaken s) hwaits hheld fun _ => exec_of_takesLock]
        at hstep
      cases hstep
      exact leavesOutside_of_callers rfl rfl
    · exact leavesOutside_of_withWaiting hmoved hd leavesOutside_of_exec hstep
  | acquire d =>
    rw [step_eq_acquireCaller hm] at hstep
    by_cases hd : c = d
    · subst hd
      have hheld : s.lock ≠ .free := fun hfree => hgrant ⟨hfree, .inr hm⟩
      rw [acquireCaller,
        withWaiting_of_waits_of_not_free (s := moveTaken s) hwaits hheld fun _ => beginRequest_of_takesLock] at hstep
      cases hstep
      exact leavesOutside_of_callers rfl rfl
    · exact leavesOutside_of_withWaiting hmoved hd leavesOutside_of_beginRequest hstep
  | engine =>
    rw [step_eq_engineTurn hm] at hstep
    exact leavesOutside_engineTurn hmoved hstep c
  | propagate d =>
    rw [step_eq_propagateTo hm] at hstep
    cases hstep
    exact leavesOutside_propagateTo c d _

end Sys2Proof.Proofs
end

section
/-! PROOF. A fair engine releases a held lock, and fair grants reach a waiting caller (O55, spec/60_exceptions.md R212,
R213, spec/20_memory.md R75). -/

namespace Sys2Proof.Proofs

open Sys2Proof.Machine Sys2Proof.Laws

section Run

variable {sched : Nat → Move} {run : Nat → State} (hrun : Execution sched run) (hinv : ∀ k, BlockInv (run k))
include hrun hinv

/-! ### Release -/

/-- By the next engine's turn the lock is free, or the request in progress has fewer turns to come. -/
theorem exists_free_or_fewerTurns {n k : Nat} {r : Request} (hengine : sched (k + n) = .engine)
    (hr : (run k).req = some r) :
    ∃ j, k ≤ j ∧ ((run j).lock = .free ∨ ((run j).req = some r ∧ laterTurns (run j) < laterTurns (run k))) := by
  have hlisted := (Quiet.of_moves (run k) [sched k]).blockInv (hinv k)
  obtain hfree | ⟨hreq, hle, hless⟩ := step_frees_or_carriesOn hlisted hr (hrun k)
  · exact ⟨k + 1, by omega, .inl hfree⟩
  · cases n with
    | zero => exact ⟨k + 1, by omega, .inr ⟨hreq, hless hengine⟩⟩
    | succ n =>
      have hengine' : sched (k + 1 + n) = .engine := by rwa [Nat.add_right_comm]
      obtain ⟨j, hj, hfree | ⟨hreqj, hlessj⟩⟩ := exists_free_or_fewerTurns hengine' hreq
      · exact ⟨j, by omega, .inl hfree⟩
      · exact ⟨j, by omega, .inr ⟨hreqj, hlessj.trans_le hle⟩⟩

/-- The turns to come of a request in progress run out, and its last one frees the lock. -/
theorem exists_free_of_request (hfair : FairEngine sched) {k : Nat} {r : Request} (hr : (run k).req = some r) :
    ∃ j, k ≤ j ∧ (run j).lock = .free := by
  induction hturns : laterTurns (run k) using Nat.strong_induction_on generalizing k with
  | _ m ih =>
    obtain ⟨e, hke, hengine⟩ := hfair k
    obtain ⟨n, rfl⟩ := Nat.exists_eq_add_of_le hke
    obtain ⟨j, hkj, hfree | ⟨hreq, hless⟩⟩ := exists_free_or_fewerTurns hrun hinv hengine hr
    · exact ⟨j, hkj, hfree⟩
    · obtain ⟨l, hjl, hfree⟩ := ih _ (hturns ▸ hless) hreq rfl
      exact ⟨l, hkj.trans hjl, hfree⟩

/-! ### Grant -/

/-- A caller that is never granted the lock waits for ever. -/
theorem waitsForLock_of_no_grant {k c : Nat} (hwaits : WaitsForLock (run k) c)
    (hnone : ∀ j, k ≤ j → ¬ GrantsLock (run j) (sched j) c) {j : Nat} (hj : k ≤ j) : WaitsForLock (run j) c := by
  induction j, hj using Nat.le_induction with
  | base => exact hwaits
  | succ j hj ih =>
    have hlisted := (Quiet.of_moves (run j) [sched j]).blockInv (hinv j)
    exact waitsForLock_of_step hlisted ih (hnone j hj) (hrun j)

end Run

/-- Settles O55: who holds the lock has a request whose turns run out under a fair engine, and a caller that is never
granted the lock would wait for ever, which a fair lock excludes. -/
theorem heldLockIsReleased : Obligations.HeldLockIsReleased := by
  refine ⟨fun sched run k c hrun hfair h hheld => ?release, fun sched run k c hrun hfair h hset hwaits => ?grant⟩
  case release =>
    have hinv := blockInv_of_execution hrun h
    obtain ⟨r, hr⟩ := exists_request_of_held (hinv k) hheld
    exact exists_free_of_request hrun hinv hfair hr
  case grant =>
    by_contra hnone
    have hnever : ∀ j, k ≤ j → ¬ GrantsLock (run j) (sched j) c := fun j hj hgrant => hnone ⟨j, hj, hgrant⟩
    exact hnone (hfair hset k fun j => waitsForLock_of_no_grant hrun (blockInv_of_execution hrun h) hwaits hnever)

end Sys2Proof.Proofs
end

section
/-! PROOF. The state after construction and the base case of the invariant of the block (O40, O41,
spec/70_reset_and_hazards.md R220). -/

namespace Sys2Proof.Proofs

open Sys2Proof.Machine Sys2Proof.Laws

/-- Every caller below NCALLERS exists after construction, with the reset values of R36 and R46. -/
theorem construct_callers_getElem? {p : Params} {c : Nat} (hc : c < p.ncallers) :
    (State.construct p).callers[c]? = some (Caller.atReset p) :=
  List.getElem?_replicate_of_lt hc

theorem construct_viewOf {p : Params} {c : Nat} (hc : c < p.ncallers) :
    viewOf (State.construct p) c = p.traceReset := by
  rw [viewOf, construct_callers_getElem? hc, Caller.atReset]

theorem construct_pendingOf {p : Params} {c : Nat} (hc : c < p.ncallers) :
    pendingOf (State.construct p) c = none := by
  rw [pendingOf, construct_callers_getElem? hc, Caller.atReset]

theorem construct_resultsOf {p : Params} {c : Nat} (hc : c < p.ncallers) :
    resultsOf (State.construct p) c = [] := by
  rw [resultsOf, construct_callers_getElem? hc, Caller.atReset]

/-- Settles O40: the fields and the defaults are those that the construction writes, and each caller below NCALLERS is
one of its replicated callers. -/
theorem constructedState : Obligations.ConstructedState := by
  intro p
  have hcallers (c : Nat) (hc : c < p.ncallers) : viewOf (State.construct p) c = p.traceReset ∧
      pendingOf (State.construct p) c = none ∧ resultsOf (State.construct p) c = [] :=
    ⟨construct_viewOf hc, construct_pendingOf hc, construct_resultsOf hc⟩
  have hncallers : 1 ≤ State.reset.params.ncallers := by decide
  exact ⟨rfl, rfl, rfl, rfl, rfl, hcallers, rfl, rfl, rfl, rfl, rfl, rfl, rfl, rfl, rfl, rfl, rfl, rfl, rfl, rfl,
    hncallers⟩

/-- Construction is UNINITIALIZED, without a fatal reason, a refusal or a written byte of memory. -/
theorem standingInv_construct (p : Params) : StandingInv (State.construct p) :=
  ⟨nofun, ⟨nofun, fun hne => absurd rfl hne⟩, Nat.two_pow_pos _, rfl, ⟨nofun, fun hne => absurd rfl hne⟩,
    List.length_replicate, List.length_replicate⟩

/-- Settles O41: the sequencer is IDLE with a free lock, and the rest of the invariant stands. -/
theorem constructedHasInvariant : Obligations.ConstructedHasInvariant := fun p =>
  blockInv_iff.mpr ⟨⟨rfl, rfl, rfl, nofun⟩, standingInv_construct p⟩

end Sys2Proof.Proofs
end

section
/-! PROOF. Where a meaning stops, and that no step does (O30, O43): the one stop is a request put to a caller that does not
exist (log entry 16), and the request port serves callers that do (spec/42_engine_ops.md R150). -/

namespace Sys2Proof.Proofs

open Sys2Proof.Machine Sys2Proof.Laws

/-! ### A request of a caller that does not exist stops -/

theorem lockedRequest_of_no_caller {s : State} (hc : s.callers.length ≤ s.caller) (i : Instr)
    (body : Nat → State → State) : lockedRequest i body s = .fault .noSuchCaller := by
  simp [lockedRequest, hc]

theorem exec_setLogging_of_no_caller {s : State} (hc : s.callers.length ≤ s.caller) (enable : Bool) :
    exec (.setLogging enable) s = .fault .noSuchCaller := by
  simp [exec, execSetLogging, hc]

theorem exec_of_no_caller {i : Instr} {s : State} (hi : i.isRequest = true) (hc : s.callers.length ≤ s.caller) :
    exec i s = .fault .noSuchCaller := by
  cases hl : i.takesLock with
  | false =>
    obtain ⟨enable, rfl⟩ := eq_setLogging_of_not_takesLock hi hl
    exact exec_setLogging_of_no_caller hc enable
  | true => exact (exec_of_takesLock hl s).trans (lockedRequest_of_no_caller hc i _)

/-! ### Every other instruction answers -/

section Answers

variable {s : State} (hc : s.caller < s.callers.length)
include hc

theorem exists_next_of_lockedRequest (i : Instr) (body : Nat → State → State) :
    ∃ t, lockedRequest i body s = .next t := by
  obtain ⟨-, hnone⟩ | ⟨hwaits, -⟩ | ⟨r, hrefused, -⟩ | ⟨hcarried, -⟩ := lockedRequest_cases i body s
  · omega
  · exact ⟨_, hwaits⟩
  · exact ⟨_, hrefused⟩
  · exact ⟨_, hcarried⟩

theorem exists_next_of_setLogging (enable : Bool) : ∃ t, exec (.setLogging enable) s = .next t := by
  by_cases he : s.estate = .faulted
  · exact ⟨_, exec_setLogging_of_faulted hc he enable⟩
  · exact ⟨_, exec_setLogging_of_not_faulted hc he enable⟩

theorem exists_next_of_exec (i : Instr) : ∃ t, exec i s = .next t := by
  cases hi : i.isRequest with
  | false => exact ⟨_, exec_of_action hi s⟩
  | true =>
    cases hl : i.takesLock with
    | false =>
      obtain ⟨enable, rfl⟩ := eq_setLogging_of_not_takesLock hi hl
      exact exists_next_of_setLogging hc enable
    | true => exact exec_of_takesLock hl s ▸ exists_next_of_lockedRequest hc i _

theorem exists_next_of_beginRequest (i : Instr) : ∃ t, beginRequest i s = .next t := by
  cases hl : i.takesLock with
  | false => simpa [beginRequest, hl] using exists_next_of_exec hc i
  | true => exact beginRequest_of_takesLock hl s ▸ exists_next_of_lockedRequest hc i _

end Answers

/-- Settles O30: a frame or an action always answers, and a request answers exactly where its caller exists. -/
theorem execStopsOnlyWithoutCaller : Obligations.ExecStopsOnlyWithoutCaller := by
  intro i s
  cases hi : i.isRequest with
  | false => exact .inr ⟨⟨_, exec_of_action hi s⟩, .inl rfl⟩
  | true =>
    obtain hc | hc := Nat.lt_or_ge s.caller s.callers.length
    · exact .inr ⟨exists_next_of_exec hc i, .inr hc⟩
    · exact .inl ⟨exec_of_no_caller hi hc, rfl, hc⟩

/-! ### Every move answers -/

/-- A grant selects a caller with a waiting request, which exists. -/
theorem exists_next_of_withWaiting {run : Instr → State → Host.Outcome State Fault Refusal}
    (hrun : ∀ {s : State}, s.caller < s.callers.length → ∀ i, ∃ t, run i s = .next t) (c : Nat) (s : State) :
    ∃ t, withWaiting c run s = .next t := by
  obtain ⟨hidle, -⟩ | ⟨call, r, -, -, hrefused⟩ | ⟨call, i, hw, -, hruns⟩ := withWaiting_cases c run s
  · exact ⟨_, hidle⟩
  · exact ⟨_, hrefused⟩
  · exact hruns ▸ hrun (s := selectCaller c s) (waitingCall_lt hw) i

/-- A request that runs at its issue has a caller that may issue, which exists. -/
theorem exists_next_of_issueRequest (c : Nat) (word : ReqWord) (out : Nat) (s : State) :
    ∃ t, issueRequest c word out s = .next t := by
  obtain ⟨hidle, -⟩ | ⟨r, -, -, hrefused⟩ | ⟨i, -, -, -, hstands⟩ | ⟨i, hm, -, -, hruns⟩ :=
    issueRequest_cases c word out s
  · exact ⟨_, hidle⟩
  · exact ⟨_, hrefused⟩
  · exact ⟨_, hstands⟩
  · have hc : c < (setPending c { word := word, out := out } s).callers.length := by simpa using lt_of_mayIssue hm
    exact hruns ▸ exists_next_of_exec (s := selectCaller c (setPending c _ s)) hc i

/-- Under the invariant the engine issues frames and actions only: the phases list no request (R32). -/
theorem exists_next_of_engineTurn {s : State} (h : BlockInv s) : ∃ t, engineTurn s = .next t := by
  cases hr : s.req with
  | none =>
    have hs := h.sequencer
    simp only [SequencerPoint, hr] at hs
    obtain ⟨-, -, htodo, -⟩ := hs
    exact ⟨s, engineTurn_of_idle hr htodo⟩
  | some r =>
    obtain ⟨t, hturn, -⟩ := exists_turnOf h hr
    exact ⟨t, hturn⟩

/-- Settles O43: each agent's move answers, the engine's by the invariant. -/
theorem stepNeverStops : Obligations.StepNeverStops := by
  intro s h
  cases hm : nextMove s with
  | issue c word out => exact step_eq_issueRequest hm ▸ exists_next_of_issueRequest c word out _
  | serve c => exact step_eq_serveCaller hm ▸ exists_next_of_withWaiting exists_next_of_exec c _
  | acquire c => exact step_eq_acquireCaller hm ▸ exists_next_of_withWaiting exists_next_of_beginRequest c _
  | engine => exact step_eq_engineTurn hm ▸ exists_next_of_engineTurn ((Quiet.of_moveTaken s).blockInv h)
  | propagate d => exact ⟨_, step_eq_propagateTo hm⟩

end Sys2Proof.Proofs
end
